-- ==== Sys2Proof/Word.lean ====
section
/-! DEFINITION. The word types of the BW block (rule R9): bytes, 32-bit register words, 64-bit sizes. -/

namespace Sys2Proof

/-- A byte, the unit of every stream (rules R8, R9). -/
abbrev Byte := BitVec 8

/-- A 32-bit word: a command word (rule R63) or a register of the window (rule R17). -/
abbrev Word := BitVec 32

/-- A size or amount of `SIZE_BITS` = 64 bits (rule R7): SHAMT, LEN and the counters CNT and OPPOS. -/
abbrev Size := BitVec 64

end Sys2Proof
end

