-- ==== Sys2Proof/Syntax.lean ====
section
/-! DEFINITION. The commands of the BW block, one constructor per row of spec/opcode_table.json, and the fields of the
one command format (rule R63). -/

namespace Sys2Proof

/-- The EOF policy of a stream form (rule R66): what happens when the operand stream yields no byte. -/
inductive Policy where
  | error
  | truncate
  | loop
  | zeroFill
  | oneFill
deriving DecidableEq, Repr

/-- The fields of a command word (rule R63), before any of them is checked. -/
structure Fields where
  /-- Bits 31:16, reserved. -/
  rsv16 : BitVec 16
  /-- Bits 15:8, the constant operand byte. -/
  imm8 : Byte
  /-- Bit 7, reserved. -/
  rsv7 : BitVec 1
  /-- Bits 6:4, the EOF policy. -/
  pol : BitVec 3
  /-- Bit 3, the operand source: 0 the constant byte, 1 the operand stream. -/
  src : BitVec 1
  /-- Bits 2:0, the operation. -/
  func : BitVec 3
deriving DecidableEq, Repr

/-- The nine commands (rule R70). A field that the command ignores is kept beside the fields it uses, because CMD reads
back the word as it was written, ignored bits included (rule R74): `ignPol` of the commands with SRC = 0, `ignImm` of
NOT, LSH, RSH and the stream forms. No meaning reads an ignored field except to store the word in CMD. -/
inductive Instr where
  /-- ORB, rule R81. -/
  | orb (imm : Byte) (ignPol : BitVec 3)
  /-- ANDB, rule R82. -/
  | andb (imm : Byte) (ignPol : BitVec 3)
  /-- XORB, rule R83. -/
  | xorb (imm : Byte) (ignPol : BitVec 3)
  /-- NOT, rule R84. -/
  | not (ignImm : Byte) (ignPol : BitVec 3)
  /-- LSH, rule R125. -/
  | lsh (ignImm : Byte) (ignPol : BitVec 3)
  /-- RSH, rule R127. -/
  | rsh (ignImm : Byte) (ignPol : BitVec 3)
  /-- ORF, rule R92. -/
  | orf (pol : Policy) (ignImm : Byte)
  /-- ANDF, rule R93. -/
  | andf (pol : Policy) (ignImm : Byte)
  /-- XORF, rule R94. -/
  | xorf (pol : Policy) (ignImm : Byte)
deriving DecidableEq, Repr

end Sys2Proof
end

