-- ==== Sys2Proof/WellFormed.lean ====
section
/-! DEFINITION. Which command words are legal, as rule R72 lists the illegal ones: four checks over the fields of a
word. A term of `Instr` needs no check of its own: its types admit only what a legal word can carry. -/

namespace Sys2Proof

/-- Rule R72 (a), rule R68: the reserved bits 31:16 and 7 are 0. -/
def Fields.reservedZero (f : Fields) : Bool := f.rsv16 == 0 && f.rsv7 == 0

/-- Rule R72 (b), rule R64: FUNC is none of the reserved values 110 and 111. -/
def Fields.funcDefined (f : Fields) : Bool := f.func != 0b110 && f.func != 0b111

/-- Rule R72 (c), rule R65: NOT, LSH and RSH have no stream form. -/
def Fields.sourceAllowed (f : Fields) : Bool :=
  !(f.src == 1 && (f.func == 0b011 || f.func == 0b100 || f.func == 0b101))

/-- Rule R72 (d), rule R66: a stream form of OR, AND or XOR names one of the five policies. -/
def Fields.policyDefined (f : Fields) : Bool :=
  !(f.src == 1 && (f.func == 0b000 || f.func == 0b001 || f.func == 0b010)
    && (f.pol == 0b101 || f.pol == 0b110 || f.pol == 0b111))

/-- A legal command: every check of rule R72 passes. -/
def Fields.wellFormed (f : Fields) : Bool :=
  f.reservedZero && f.funcDefined && f.sourceAllowed && f.policyDefined

end Sys2Proof
end

