-- ==== Sys2Proof/Decode.lean ====
section
/-! DEFINITION. Decoding a command word (rule R70), then encoding (rules R63 to R66, R76). A command is one 32-bit word
written to CMD: no fetch and no byte order arises (rules R43, R75). -/

namespace Sys2Proof

/-- The fields of a word, at the places rule R63 gives them. -/
def fieldsOfWord (w : Word) : Fields where
  rsv16 := w.extractLsb' 16 16
  imm8 := w.extractLsb' 8 8
  rsv7 := w.extractLsb' 7 1
  pol := w.extractLsb' 4 3
  src := w.extractLsb' 3 1
  func := w.extractLsb' 0 3

/-- The policy that the POL field of a stream form selects; 101, 110 and 111 are reserved (rule R66). -/
def policyOfCode (p : BitVec 3) : Option Policy :=
  match p.toNat with
  | 0 => some .error
  | 1 => some .truncate
  | 2 => some .loop
  | 3 => some .zeroFill
  | 4 => some .oneFill
  | _ => none

/-- `decode` of rule R70; `none` is its `Illegal`. -/
def decode (w : Word) : Option Instr :=
  let f := fieldsOfWord w
  if f.rsv16 ≠ 0 ∨ f.rsv7 ≠ 0 then none
  else
    match f.src.toNat, f.func.toNat with
    | 0, 0 => some (.orb f.imm8 f.pol)
    | 0, 1 => some (.andb f.imm8 f.pol)
    | 0, 2 => some (.xorb f.imm8 f.pol)
    | 0, 3 => some (.not f.imm8 f.pol)
    | 0, 4 => some (.lsh f.imm8 f.pol)
    | 0, 5 => some (.rsh f.imm8 f.pol)
    | 1, 0 => (policyOfCode f.pol).map (.orf · f.imm8)
    | 1, 1 => (policyOfCode f.pol).map (.andf · f.imm8)
    | 1, 2 => (policyOfCode f.pol).map (.xorf · f.imm8)
    | _, _ => none

/-- The POL code of a policy (rule R66). -/
def policyCode : Policy → BitVec 3
  | .error => 0
  | .truncate => 1
  | .loop => 2
  | .zeroFill => 3
  | .oneFill => 4

/-- The word that holds these fields, the pattern of rule R63 from its most significant bit down. -/
def wordOfFields (f : Fields) : Word := f.rsv16 ++ f.imm8 ++ f.rsv7 ++ f.pol ++ f.src ++ f.func

/-- A legal word's fields: the reserved bits 0 (rule R68). -/
def legalFields (imm8 : Byte) (pol : BitVec 3) (src : BitVec 1) (func : BitVec 3) : Fields where
  rsv16 := 0
  imm8 := imm8
  rsv7 := 0
  pol := pol
  src := src
  func := func

/-- The fields of a command's word: FUNC by rule R64, SRC by rule R65, POL by rule R66, IMM8 by rule R67. -/
def fieldsOfInstr : Instr → Fields
  | .orb imm p => legalFields imm p 0 0b000
  | .andb imm p => legalFields imm p 0 0b001
  | .xorb imm p => legalFields imm p 0 0b010
  | .not imm p => legalFields imm p 0 0b011
  | .lsh imm p => legalFields imm p 0 0b100
  | .rsh imm p => legalFields imm p 0 0b101
  | .orf pol imm => legalFields imm (policyCode pol) 1 0b000
  | .andf pol imm => legalFields imm (policyCode pol) 1 0b001
  | .xorf pol imm => legalFields imm (policyCode pol) 1 0b010

/-- The word of a command (rule R76, with the ignored fields as the command carries them). -/
def encode (i : Instr) : Word := wordOfFields (fieldsOfInstr i)

/-- The instruction whose bits are the low `nbits` bits of `w`, bit 0 the least significant bit of the command word; a
command is exactly one 32-bit word (rule R75), so a longer one is refused. -/
def decodeTableWord (nbits w : Nat) : Option Instr :=
  if w % 2 ^ nbits < 2 ^ 32 then decode (BitVec.ofNat 32 (w % 2 ^ nbits)) else none

end Sys2Proof
end

