-- ==== Sys2Proof/Machine/State.lean ====
section
/-! DEFINITION. The state of the machine: the block's register window (rules R17 to R31), its hidden sequencer registers
(rules R33, R34), the three streams behind its ports (rules R37, R40, R54 to R56), and the host accesses to come (rule
R52). Everything is plain data. -/

namespace Sys2Proof.Machine

/-- The result tags (rules R26, R139). The codes 6 and 7 of RESULT are never produced, so no tag stands for them. -/
inductive ResultTag where
  | none
  | inputRead
  | outputWrite
  | operandRead
  | operandEOF
  | operandSeek
deriving DecidableEq, Repr

/-- The fields of STATUS (rule R20). Its reserved bits read as 0 and cannot be written, so nothing holds them; the word
the host reads is `Status.word` of Machine/Flags.lean. -/
structure Status where
  /-- Bit 0 (rule R21). -/
  busy : Bool
  /-- Bit 1, write-1-to-clear (rule R22). -/
  done : Bool
  /-- Bit 2, write-1-to-clear (rule R23). -/
  illcmd : Bool
  /-- Bit 3, write-1-to-clear (rule R24). -/
  wbusy : Bool
  /-- Bit 4 (rule R25). -/
  short : Bool
  /-- Bits 10:8 (rule R26). -/
  result : ResultTag
  /-- Bit 11 (rule R27). -/
  hascode : Bool
deriving DecidableEq, Repr

/-- PHASE (rule R34): the next port transaction of the running command, or IDLE. -/
inductive Phase where
  | idle
  | bIn
  | bOut
  | fIn
  | fOp
  | fRew
  | fOut
  | lsSkip
  | lsLoad
  | lsIn
  | lsOut
  | lsTail
  | lsZero
  | rsZero
  | rsIn
  | rsOut
  | rsDrain
deriving DecidableEq, Repr

/-- An answer to `InRead` or `OpRead` (rules R54, R55). An error carries an OS error code of `CODE_BITS` = 32 bits, or
none (rule R11). -/
inductive ReadAnswer where
  | byte (v : Byte)
  | eof
  | err (code : Option Word)
deriving DecidableEq, Repr

/-- An answer to `OutWrite` or `OpRewind` (rules R55, R56). -/
inductive Ack where
  | ok
  | err (code : Option Word)
deriving DecidableEq, Repr

/-- The input stream behind its port (rules R37, R54): the answers the environment will give, in order, and the input
position. The environment chooses the answers freely, so the list is any list; where it ends, the port gives no answer
(log entry 3). -/
structure InPort where
  answers : List ReadAnswer
  pos : Nat
deriving DecidableEq, Repr

/-- The operand stream behind its port (rules R37, R55): the answers to `OpRead` and to `OpRewind`, the operand position,
and the position the operand had when the running command was accepted, its "start". -/
structure OperandPort where
  answers : List ReadAnswer
  rewinds : List Ack
  pos : Nat
  start : Nat
deriving DecidableEq, Repr

/-- The output stream behind its port (rules R37, R56): the answers to `OutWrite`, and the bytes appended so far, in the
order of their positions. -/
structure OutPort where
  answers : List Ack
  written : List Byte
deriving DecidableEq, Repr

/-- A step that something outside the block decides (rules R52, R160). Offsets count in bytes from `BW_BASE`, widths are
in bytes. -/
inductive Event where
  /-- The host reads the window (rule R46). -/
  | read (width off : Nat)
  /-- The host writes the window (rule R47). -/
  | write (width off : Nat) (v : Word)
  /-- The block has the turn (rule R52): it takes its step, if one is enabled. -/
  | block
  /-- Reset is asserted (rule R160). -/
  | reset
deriving DecidableEq, Repr

/-- Why the machine stops with a fault. The block itself has no trap (rule R138); these name states that the block never
reaches (the invariant `State.Inv` of Safety.lean excludes them). -/
inductive Fault where
  /-- Raised by a block step of a command whose phase table (rule R34, column "used by") does not have the current PHASE;
  F_REW is in the table of a stream form under Loop only.
  Safe: the spec gives such a state no step, and no reachable state has it (log entry 6). -/
  | foreignPhase
  /-- Raised by a block step while BUSY = 1 and CMD holds an illegal word, which rule R18 says it never does. Safe, as
  `foreignPhase`. -/
  | illegalRunning
deriving DecidableEq, Repr

/-- Why the machine refuses to give a step a meaning. -/
inductive Refusal where
  /-- Raised by an arm of `exec` whose instruction has no meaning yet; safe. -/
  | notModelled (mnemonic : String)
  /-- Raised by a host access that is not an aligned 32-bit access, which rule R45 says "the model refuses"; safe. -/
  | accessShape
  /-- Raised by a host access at or beyond offset 0x20, which is "outside the BW block" (rule R31); safe. -/
  | outsideWindow
  /-- Raised by launching a command while two ports are one underlying stream, which rule R62 says "the model refuses";
  safe. -/
  | aliasedPorts
deriving DecidableEq, Repr

/-- The state. The block's own registers come first, then the environment's streams, then the model's own fields: the
platform's wiring, the events to come, and the word the last host read returned. -/
structure State where
  /-- CMD (rules R18, R19). -/
  cmd : Word
  /-- STATUS (rule R20). -/
  status : Status
  /-- ERRCODE (rule R28). -/
  errcode : Word
  /-- SHAMT_LO (rule R29). -/
  shamtLo : Word
  /-- SHAMT_HI (rule R29). -/
  shamtHi : Word
  /-- LEN_LO (rule R30). -/
  lenLo : Word
  /-- LEN_HI (rule R30). -/
  lenHi : Word
  /-- PHASE (rules R33, R34), hidden. -/
  phase : Phase
  /-- CNT (rule R33), hidden. -/
  cnt : Size
  /-- HOLD (rule R33), hidden. -/
  hold : Byte
  /-- CARRY (rule R33), hidden. -/
  carry : Byte
  /-- OPPOS (rules R33, R104), hidden. -/
  oppos : Size
  /-- OPEOF (rules R33, R105), hidden. -/
  opeof : Bool
  /-- The input stream (rules R37, R54). -/
  input : InPort
  /-- The operand stream (rules R37, R55). -/
  operand : OperandPort
  /-- The output stream (rules R37, R56). -/
  output : OutPort
  /-- The platform has connected two of the ports to one underlying stream (rule R62). -/
  portsAliased : Bool
  /-- The events to come, in order: any interleaving of host steps, block steps and resets is some list (rule R52). -/
  agenda : List Event
  /-- What the host's last `MemRead` returned (rule R46). -/
  rdata : Word
deriving DecidableEq, Repr

/-- STATUS after reset (rules R20, R38). -/
def Status.reset : Status where
  busy := false
  done := false
  illcmd := false
  wbusy := false
  short := false
  result := .none
  hascode := false

/-- The machine right after reset: rule R38 for every register and hidden register; no port is connected, so no port has
an answer to give; nothing has been read or written; the host has not acted yet (log entries 12 and 18). -/
def State.reset : State where
  cmd := 0
  status := Status.reset
  errcode := 0
  shamtLo := 0
  shamtHi := 0
  lenLo := 0
  lenHi := 0
  phase := .idle
  cnt := 0
  hold := 0
  carry := 0
  oppos := 0
  opeof := false
  input := { answers := [], pos := 0 }
  operand := { answers := [], rewinds := [], pos := 0, start := 0 }
  output := { answers := [], written := [] }
  portsAliased := false
  agenda := []
  rdata := 0

/-- The outcome of a step of this machine. -/
abbrev Outcome := Host.Outcome State Fault Refusal

end Sys2Proof.Machine
end

