-- ==== Sys2Proof/Machine/Flags.lean ====
section
/-! DEFINITION. The STATUS word: its layout as the host reads it (rule R20), the RESULT codes (rules R26, R139), and what a
host write to it clears (rules R20, R47, R49). The block has no arithmetic flags (rule R32). -/

namespace Sys2Proof.Machine

/-- The code of a tag in STATUS.RESULT (rules R26, R139). -/
def resultCode : ResultTag → BitVec 3
  | .none => 0
  | .inputRead => 1
  | .outputWrite => 2
  | .operandRead => 3
  | .operandEOF => 4
  | .operandSeek => 5

/-- The 32 bits a host read of STATUS returns (rule R20); bits 31:12 and 7:5 read as 0. -/
def Status.word (st : Status) : Word :=
  (0 : BitVec 20) ++ BitVec.ofBool st.hascode ++ resultCode st.result ++ (0 : BitVec 3) ++ BitVec.ofBool st.short
    ++ BitVec.ofBool st.wbusy ++ BitVec.ofBool st.illcmd ++ BitVec.ofBool st.done ++ BitVec.ofBool st.busy

/-- A host write of `v` to STATUS (rules R20, R47): it clears DONE, ILLCMD and WBUSY where bits 1, 2 and 3 of `v` are 1,
and nothing else. -/
def Status.writeOneToClear (st : Status) (v : Word) : Status :=
  { st with
    done := st.done && !v.getLsbD 1
    illcmd := st.illcmd && !v.getLsbD 2
    wbusy := st.wbusy && !v.getLsbD 3 }

/-- The output signal `done_o`, "equal at every moment to STATUS.DONE" (rules R36, R152). -/
def State.doneO (s : State) : Bool := s.status.done

end Sys2Proof.Machine
end

