-- ==== Sys2Proof/Config.lean ====
section
/-! DEFINITION. The implementation parameters of rule R7: what this spec fixes, and the one it leaves open. -/

namespace Sys2Proof.Config

/-- `BW_BASE`, the base address of the 32-byte register window on the host bus (rules R7, R51). The spec leaves it
OPEN: the constant has no body, so no proof can see a value of it (log entry 10). -/
opaque bwBase : Nat

/-- The size in bytes of the register window (rule R51). -/
def windowBytes : Nat := 32

/-- `FILL0`, the byte substituted by the ZeroFill policy (rule R7). -/
def fill0 : Byte := 0x00

/-- `FILL1`, the byte substituted by the OneFill policy (rule R7). -/
def fill1 : Byte := 0xFF

end Sys2Proof.Config
end

