-- ==== Sys2Proof/Machine/Operands.lean ====
section
/-! DEFINITION. The operand forms: the four byte functions (rule R79), the fill bytes (rule R91), the 64-bit values of
SHAMT and LEN with their parts (rules R29, R30, R112), and the funnel shifter (rule R113). -/

namespace Sys2Proof.Machine

/-- `opOR` of rule R79. -/
def opOr (a b : Byte) : Byte := a ||| b

/-- `opAND` of rule R79. -/
def opAnd (a b : Byte) : Byte := a &&& b

/-- `opXOR` of rule R79. -/
def opXor (a b : Byte) : Byte := a ^^^ b

/-- `opNOT` of rule R79: the second argument is ignored. -/
def opNot (a _b : Byte) : Byte := a ^^^ 0xFF

/-- `fill(pol)` of rule R91: the operand byte once the operand has ended, for the two filling policies only. -/
def fillByte : Policy → Option Byte
  | .zeroFill => some Config.fill0
  | .oneFill => some Config.fill1
  | .error => none
  | .truncate => none
  | .loop => none

/-- SHAMT = SHAMT_HI * 2^32 + SHAMT_LO (rule R29). -/
def State.shamt (s : State) : Size := (s.shamtHi ++ s.shamtLo).setWidth 64

/-- LEN = LEN_HI * 2^32 + LEN_LO (rule R30); `L` of rule R112. -/
def State.len (s : State) : Size := (s.lenHi ++ s.lenLo).setWidth 64

/-- `bo = SHAMT >> 3` (rules R69, R112): the whole-byte part of the amount. -/
def State.bo (s : State) : Size := s.shamt >>> 3

/-- `b = SHAMT[2:0]` (rules R69, R112): the sub-byte part of the amount. -/
def State.bits (s : State) : Nat := (s.shamt.extractLsb' 0 3).toNat

/-- The funnel shifter (rule R113), `((hi * 256 + lo) >> r) mod 256`: output bit j is bit j + r of the 16-bit value
`hi:lo`. -/
def funnel (hi lo : Byte) (r : Nat) : Byte := ((hi ++ lo) >>> r).setWidth 8

/-- CNT after one more byte: it counts down and stops at 0 (rule R16; DEDUCED for a CNT of 0, log entry 8). -/
def countDown (c : Size) : Size := if c = 0 then 0 else c - 1

/-- `sat64(x + 1)` (rules R33, R95): OPPOS saturates at 2^64 - 1. -/
def countUp (c : Size) : Size := if c = BitVec.allOnes 64 then c else c + 1

end Sys2Proof.Machine
end

