-- ==== Sys2Proof/Machine/Ops.lean ====
section
/-! DEFINITION. The named operations that the meanings share: the four port transactions (rules R54 to R57), `finish`, by
which every command ends and every error is recorded (rule R145; the block's analogue of taking an exception, rule R138),
the early end of a shift's input (rule R130), the acceptance of a command (rule R71), and reset (rule R160). -/

namespace Sys2Proof.Machine

/-! ### Port transactions -/

/-- How far an answer moves a stream: `Byte` consumes one byte, `Eof` and `Err` none (rules R54, R57). -/
def ReadAnswer.advance : ReadAnswer → Nat
  | .byte _ => 1
  | .eof => 0
  | .err _ => 0

/-- `InRead()` (rule R54): the port's next answer and the state after the transaction; `none` while the port has no
answer, when the block is held. -/
def State.inRead (s : State) : Option (ReadAnswer × State) :=
  match s.input.answers with
  | [] => none
  | a :: rest => some (a, { s with input := { answers := rest, pos := s.input.pos + a.advance } })

/-- `OpRead()` (rule R55), as `inRead` for the operand stream. -/
def State.opRead (s : State) : Option (ReadAnswer × State) :=
  match s.operand.answers with
  | [] => none
  | a :: rest =>
    some (a, { s with operand := { s.operand with answers := rest, pos := s.operand.pos + a.advance } })

/-- `OpRewind()` (rule R55): `Ok` returns the operand to the position it had when the command was accepted, `Err` moves
nothing. -/
def State.opRewind (s : State) : Option (Ack × State) :=
  match s.operand.rewinds with
  | [] => none
  | .ok :: rest =>
    some (.ok, { s with operand := { s.operand with rewinds := rest, pos := s.operand.start } })
  | .err c :: rest => some (.err c, { s with operand := { s.operand with rewinds := rest } })

/-- `OutWrite(v)` (rule R56): `Ok` appends `v` at the next output position, `Err` appends nothing. -/
def State.outWrite (v : Byte) (s : State) : Option (Ack × State) :=
  match s.output.answers with
  | [] => none
  | .ok :: rest => some (.ok, { s with output := { answers := rest, written := s.output.written ++ [v] } })
  | .err c :: rest => some (.err c, { s with output := { s.output with answers := rest } })

/-! ### Ending a command -/

/-- `finish(tag, c)` (rule R145). -/
def State.finish (tag : ResultTag) (c : Option Word) (s : State) : State :=
  { s with
    status := { s.status with result := tag, hascode := c.isSome, busy := false, done := true }
    errcode := c.getD 0
    phase := .idle }

/-- `short()` (rules R125, R130): the input ended before LEN bytes. -/
def State.shortInput (s : State) : State :=
  { s with status := { s.status with short := true } }.finish .inputRead none

/-! ### One block step, by the port it uses

A step is one port transaction with the pseudocode after it (rule R52). Without an answer from the port the step is not
enabled and the state stays as it is (rules R52, R170). -/

/-- A step that reads the input. Every engine ends in InputRead at an input `Err` (rules R80, R91, R125, R127, R140). -/
def State.afterInRead (onByte : Byte → State → State) (onEof : State → State) (s : State) : State :=
  match s.inRead with
  | none => s
  | some (.byte v, t) => onByte v t
  | some (.eof, t) => onEof t
  | some (.err c, t) => t.finish .inputRead c

/-- A step that writes `v` to the output. Every engine ends in OutputWrite at an output `Err` (rules R80, R91, R125, R127,
R141). -/
def State.afterOutWrite (v : Byte) (onOk : State → State) (s : State) : State :=
  match s.outWrite v with
  | none => s
  | some (.ok, t) => onOk t
  | some (.err c, t) => t.finish .outputWrite c

/-- A step that reads the operand; an operand `Err` ends in OperandRead (rules R95, R96, R142). -/
def State.afterOpRead (onByte : Byte → State → State) (onEof : State → State) (s : State) : State :=
  match s.opRead with
  | none => s
  | some (.byte v, t) => onByte v t
  | some (.eof, t) => onEof t
  | some (.err c, t) => t.finish .operandRead c

/-- A step that rewinds the operand; `Err` ends in OperandSeek (rules R95, R100, R144). -/
def State.afterOpRewind (onOk : State → State) (s : State) : State :=
  match s.opRewind with
  | none => s
  | some (.ok, t) => onOk t
  | some (.err c, t) => t.finish .operandSeek c

/-! ### Starting a command -/

/-- What acceptance of the legal word `w` does before `start` (rule R71). The position the operand has now becomes its
start (rules R55, R104). -/
def State.accepted (w : Word) (s : State) : State :=
  { s with
    cmd := w
    status := { s.status with busy := true, done := false, short := false, result := .none, hascode := false }
    errcode := 0
    cnt := 0
    hold := 0
    carry := 0
    oppos := 0
    opeof := false
    operand := { s.operand with start := s.operand.pos } }

/-- The next atomic step of a command (rule R52) whose word is `w`. On an idle block it is the acceptance of the command
(rule R71), with `start` its first phase, refused where two ports are one stream (rule R62); on a busy block it is the
block step `block` that PHASE names (rule R34). A host write to CMD on a busy block never comes here (rule R24). -/
def runCommand (w : Word) (start : State → State) (block : State → Outcome) (s : State) : Outcome :=
  if s.status.busy then block s
  else if s.portsAliased then .refused .aliasedPorts
  else .next (start (s.accepted w))

/-! ### Reset -/

/-- Reset is asserted (rules R38, R160, R161): every register and hidden register takes its reset value; what the streams
have given and taken stays so. -/
def State.resetBlock (s : State) : State :=
  { s with
    cmd := 0
    status := Status.reset
    errcode := 0
    shamtLo := 0
    shamtHi := 0
    lenLo := 0
    lenHi := 0
    phase := .idle
    cnt := 0
    hold := 0
    carry := 0
    oppos := 0
    opeof := false }

end Sys2Proof.Machine
end

