-- ==== Sys2Proof/Machine/ByteForm.lean ====
section
/-! DEFINITION. The byte forms ORB, ANDB, XORB and NOT (rules R79 to R90). -/

namespace Sys2Proof.Machine

/-- `start_byte` of rule R80. -/
def startByte (s : State) : State := { s with phase := .bIn }

/-- The block steps of rule R80, with `op` the command's function and `k` its constant. -/
def byteStep (op : Byte → Byte → Byte) (k : Byte) (s : State) : Outcome :=
  match s.phase with
  | .bIn =>
    .next (s.afterInRead (fun a t => { t with hold := op a k, phase := .bOut }) (fun t => t.finish .none none))
  | .bOut => .next (s.afterOutWrite s.hold (fun t => { t with phase := .bIn }))
  | _ => .fault .foreignPhase

/-- ORB (rule R81): each output byte is `a | b`. -/
def execOrb (imm : Byte) (ignPol : BitVec 3) (s : State) : Outcome :=
  runCommand (encode (.orb imm ignPol)) startByte (byteStep opOr imm) s

/-- ANDB (rule R82): each output byte is `a & b`. -/
def execAndb (imm : Byte) (ignPol : BitVec 3) (s : State) : Outcome :=
  runCommand (encode (.andb imm ignPol)) startByte (byteStep opAnd imm) s

/-- XORB (rule R83): each output byte is `a ^ b`. -/
def execXorb (imm : Byte) (ignPol : BitVec 3) (s : State) : Outcome :=
  runCommand (encode (.xorb imm ignPol)) startByte (byteStep opXor imm) s

/-- NOT (rule R84): each output byte is `a ^ 0xFF`, whatever IMM8 holds. -/
def execNot (ignImm : Byte) (ignPol : BitVec 3) (s : State) : Outcome :=
  runCommand (encode (.not ignImm ignPol)) startByte (byteStep opNot ignImm) s

end Sys2Proof.Machine
end

