-- ==== Sys2Proof/Machine/Shift.lean ====
section
/-! DEFINITION. The shift commands LSH and RSH (rules R112 to R137). L, bo and b are `State.len`, `State.bo` and
`State.bits`; they do not change while the command runs (rules R39, R112). -/

namespace Sys2Proof.Machine

/-! ### LSH (rule R125) -/

/-- `after_skip()` of rule R125: an amount of the whole stream or more gives zeros only (rule R119). -/
def afterSkip (t : State) : State :=
  if t.len ≤ t.bo then { t with cnt := t.len, phase := .lsZero } else { t with phase := .lsLoad }

/-- `start_lsh()` of rule R125; a stream of no bytes finishes at once (rule R129). -/
def startLsh (t : State) : State :=
  if t.len = 0 then t.finish .none none
  else if t.bo = 0 then afterSkip { t with cnt := 0 }
  else { t with cnt := if t.bo ≤ t.len then t.bo else t.len, phase := .lsSkip }

/-- LS_OUT and LS_LOAD go on to the next input byte, or to the tail when none is left (rule R125). -/
def lshNext (t : State) : State := if t.cnt = 0 then { t with phase := .lsTail } else { t with phase := .lsIn }

/-- The block steps of LSH (rule R125). -/
def lshStep (s : State) : Outcome :=
  match s.phase with
  | .lsSkip =>
    .next (s.afterInRead
      (fun _ t =>
        let u := { t with cnt := countDown t.cnt }
        if u.cnt = 0 then afterSkip u else u)
      State.shortInput)
  | .lsLoad =>
    .next (s.afterInRead (fun x t => lshNext { t with carry := x, cnt := t.len - t.bo - 1 }) State.shortInput)
  | .lsIn =>
    .next (s.afterInRead
      (fun x t =>
        { t with hold := funnel t.carry x (8 - t.bits), carry := x, cnt := countDown t.cnt, phase := .lsOut })
      State.shortInput)
  | .lsOut => .next (s.afterOutWrite s.hold lshNext)
  | .lsTail =>
    .next (s.afterOutWrite (funnel s.carry 0x00 (8 - s.bits))
      (fun t => if t.bo = 0 then { t with cnt := t.bo }.finish .none none else { t with cnt := t.bo, phase := .lsZero }))
  | .lsZero =>
    .next (s.afterOutWrite 0x00
      (fun t =>
        let u := { t with cnt := countDown t.cnt }
        if u.cnt = 0 then u.finish .none none else u))
  | _ => .fault .foreignPhase

/-- LSH (rule R125). -/
def execLsh (ignImm : Byte) (ignPol : BitVec 3) (s : State) : Outcome :=
  runCommand (encode (.lsh ignImm ignPol)) startLsh lshStep s

/-! ### RSH (rule R127) -/

/-- `after_rzero()` of rule R127: an amount of the whole stream or more drains the input and writes nothing more (rule
R119). -/
def afterLeadingZeros (t : State) : State :=
  if t.len ≤ t.bo then { t with cnt := t.len, phase := .rsDrain }
  else { t with carry := 0x00, cnt := t.len - t.bo, phase := .rsIn }

/-- `start_rsh()` of rule R127; a stream of no bytes finishes at once (rule R129). -/
def startRsh (t : State) : State :=
  if t.len = 0 then t.finish .none none
  else if t.bo = 0 then afterLeadingZeros { t with cnt := 0 }
  else { t with cnt := if t.bo ≤ t.len then t.bo else t.len, phase := .rsZero }

/-- The block steps of RSH (rule R127). -/
def rshStep (s : State) : Outcome :=
  match s.phase with
  | .rsZero =>
    .next (s.afterOutWrite 0x00
      (fun t =>
        let u := { t with cnt := countDown t.cnt }
        if u.cnt = 0 then afterLeadingZeros u else u))
  | .rsIn =>
    .next (s.afterInRead
      (fun x t =>
        { t with hold := funnel t.carry x t.bits, carry := x, cnt := countDown t.cnt, phase := .rsOut })
      State.shortInput)
  | .rsOut =>
    .next (s.afterOutWrite s.hold
      (fun t =>
        if t.cnt ≠ 0 then { t with phase := .rsIn }
        else if t.bo ≠ 0 then { t with cnt := t.bo, phase := .rsDrain }
        else t.finish .none none))
  | .rsDrain =>
    .next (s.afterInRead
      (fun _ t =>
        let u := { t with cnt := countDown t.cnt }
        if u.cnt = 0 then u.finish .none none else u)
      State.shortInput)
  | _ => .fault .foreignPhase

/-- RSH (rule R127). -/
def execRsh (ignImm : Byte) (ignPol : BitVec 3) (s : State) : Outcome :=
  runCommand (encode (.rsh ignImm ignPol)) startRsh rshStep s

end Sys2Proof.Machine
end

