-- ==== Sys2Proof/Machine/StreamForm.lean ====
section
/-! DEFINITION. The stream forms ORF, ANDF and XORF and the EOF-policy resolver (rules R91 to R111). -/

namespace Sys2Proof.Machine

/-- `start_file` of rule R91. -/
def startFile (s : State) : State := { s with phase := .fIn }

/-- F_IN at a byte `a` (rule R91): once OPEOF is set the fill byte is combined without any operand transaction (rules
R101, R102, R105); otherwise the operand byte is fetched next. OPEOF is never set under a policy that does not fill,
and would have no effect there (DEDUCED, log entry 8). -/
def fileInput (op : Byte → Byte → Byte) (pol : Policy) (a : Byte) (t : State) : State :=
  match t.opeof, fillByte pol with
  | true, some f => { t with hold := op a f, phase := .fOut }
  | _, _ => { t with hold := a, phase := .fOp }

/-- F_OP at an operand `Eof` (rule R95), by policy (rules R97 to R102). -/
def operandEof (op : Byte → Byte → Byte) (pol : Policy) (t : State) : State :=
  match pol with
  | .error => t.finish .operandEOF none
  | .truncate => t.finish .none none
  | .zeroFill => { t with opeof := true, hold := op t.hold Config.fill0, phase := .fOut }
  | .oneFill => { t with opeof := true, hold := op t.hold Config.fill1, phase := .fOut }
  | .loop => if t.oppos = 0 then t.finish .operandEOF none else { t with phase := .fRew }

/-- The block steps of rules R91 and R95, with `op` the command's function and `pol` its policy. Only Loop uses F_REW (rule
R34); under another policy that phase is foreign, as every phase of another command is (DESIGN CHOICE, safe: log entry 6,
no reachable state). -/
def fileStep (op : Byte → Byte → Byte) (pol : Policy) (s : State) : Outcome :=
  match s.phase with
  | .fIn => .next (s.afterInRead (fileInput op pol) (fun t => t.finish .none none))
  | .fOp =>
    .next (s.afterOpRead
      (fun v t => { t with oppos := countUp t.oppos, hold := op t.hold v, phase := .fOut })
      (operandEof op pol))
  | .fRew =>
    if pol = .loop then .next (s.afterOpRewind (fun t => { t with oppos := 0, phase := .fOp }))
    else .fault .foreignPhase
  | .fOut => .next (s.afterOutWrite s.hold (fun t => { t with phase := .fIn }))
  | _ => .fault .foreignPhase

/-- ORF (rule R92). -/
def execOrf (pol : Policy) (ignImm : Byte) (s : State) : Outcome :=
  runCommand (encode (.orf pol ignImm)) startFile (fileStep opOr pol) s

/-- ANDF (rule R93). -/
def execAndf (pol : Policy) (ignImm : Byte) (s : State) : Outcome :=
  runCommand (encode (.andf pol ignImm)) startFile (fileStep opAnd pol) s

/-- XORF (rule R94). -/
def execXorf (pol : Policy) (ignImm : Byte) (s : State) : Outcome :=
  runCommand (encode (.xorf pol ignImm)) startFile (fileStep opXor pol) s

end Sys2Proof.Machine
end

