-- ==== Sys2Proof/Machine/Dispatch.lean ====
section
/-! DEFINITION. The meaning of every command: one arm per constructor of `Instr`. -/

namespace Sys2Proof.Machine

def exec (i : Instr) (s : State) : Host.Outcome State Fault Refusal :=
  match i with
  | .orb imm ignPol => Sys2Proof.Machine.execOrb imm ignPol s
  | .andb imm ignPol => Sys2Proof.Machine.execAndb imm ignPol s
  | .xorb imm ignPol => Sys2Proof.Machine.execXorb imm ignPol s
  | .not ignImm ignPol => Sys2Proof.Machine.execNot ignImm ignPol s
  | .lsh ignImm ignPol => Sys2Proof.Machine.execLsh ignImm ignPol s
  | .rsh ignImm ignPol => Sys2Proof.Machine.execRsh ignImm ignPol s
  | .orf pol ignImm => Sys2Proof.Machine.execOrf pol ignImm s
  | .andf pol ignImm => Sys2Proof.Machine.execAndf pol ignImm s
  | .xorf pol ignImm => Sys2Proof.Machine.execXorf pol ignImm s

end Sys2Proof.Machine
end

