-- ==== Sys2Proof/Machine/Bus.lean ====
section
/-! DEFINITION. The atomic steps of rule R52: host reads and writes of the register window (rules R45 to R50), the write
to CMD that issues a command (rule R71), the block's turn, and reset. -/

namespace Sys2Proof.Machine

/-- The offset in the window of a bus address (rules R31, R51); `none` for an address outside the window. -/
def windowOffset (addr : Nat) : Option Nat :=
  if Config.bwBase ≤ addr ∧ addr < Config.bwBase + Config.windowBytes then some (addr - Config.bwBase) else none

/-- `MemRead(addr, width)` (rule R46) as the event that reaches the block. -/
def memRead (addr width : Nat) : Option Event := (windowOffset addr).map (.read width)

/-- `MemWrite(addr, width, v)` (rule R47) as the event that reaches the block. -/
def memWrite (addr width : Nat) (v : Word) : Option Event := (windowOffset addr).map (.write width · v)

/-- Why a host access is refused, if it is: outside the window, whatever its width (rule R31; DEDUCED, log entry 9), or not
an aligned 32-bit access (rule R45). -/
def accessRefusal (width off : Nat) : Option Refusal :=
  if Config.windowBytes ≤ off then some .outsideWindow
  else if width ≠ 4 ∨ off % 4 ≠ 0 then some .accessShape
  else none

/-- The register at a word offset of the window (rule R17), as a host read returns it (rule R46); offset 0x1C reads 0
(rule R31). -/
def State.register (s : State) (off : Nat) : Word :=
  match off with
  | 0x00 => s.cmd
  | 0x04 => s.status.word
  | 0x08 => s.errcode
  | 0x0C => s.shamtLo
  | 0x10 => s.shamtHi
  | 0x14 => s.lenLo
  | 0x18 => s.lenHi
  | _ => 0

/-- A host read (rule R46): the host gets the register, and no register changes. -/
def hostRead (width off : Nat) (s : State) : Outcome :=
  match accessRefusal width off with
  | some r => .refused r
  | none => .next { s with rdata := s.register off }

/-- A write to a frozen register, or to CMD, while a command runs (rules R24, R147). -/
def State.writeWhileBusy (s : State) : State := { s with status := { s.status with wbusy := true } }

/-- A write of an illegal word to CMD (rules R23, R146). -/
def State.illegalCommand (s : State) : State := { s with status := { s.status with illcmd := true } }

/-- A write of `v` to one of the parameter registers SHAMT_LO, SHAMT_HI, LEN_LO and LEN_HI (rule R47), by offset. -/
def State.writeParameter (off : Nat) (v : Word) (s : State) : State :=
  if s.status.busy then s.writeWhileBusy
  else
    match off with
    | 0x0C => { s with shamtLo := v }
    | 0x10 => { s with shamtHi := v }
    | 0x14 => { s with lenLo := v }
    | 0x18 => { s with lenHi := v }
    | _ => s

/-- `accept(w)` (rule R71). -/
def acceptWord (w : Word) (s : State) : Outcome :=
  if s.status.busy then .next s.writeWhileBusy
  else
    match decode w with
    | none => .next s.illegalCommand
    | some i => exec i s

/-- A host write (rule R47). -/
def hostWrite (width off : Nat) (v : Word) (s : State) : Outcome :=
  match accessRefusal width off with
  | some r => .refused r
  | none =>
    match off with
    | 0x00 => acceptWord v s
    | 0x04 => .next { s with status := s.status.writeOneToClear v }
    | 0x08 => .next s
    | 0x1C => .next s
    | _ => .next (s.writeParameter off v)

/-- The block's turn (rules R21, R52): while BUSY = 1 the command in CMD takes its next step; while BUSY = 0 it takes
none. -/
def blockTurn (s : State) : Outcome :=
  if s.status.busy then
    match decode s.cmd with
    | some i => exec i s
    | none => .fault .illegalRunning
  else .next s

/-- One event (rules R52, R160). -/
def runEvent (e : Event) (s : State) : Outcome :=
  match e with
  | .read width off => hostRead width off s
  | .write width off v => hostWrite width off v s
  | .block => blockTurn s
  | .reset => .next s.resetBlock

/-- The event that issues the command word whose low `nbits` bits are `w`: a host write to CMD (rules R43, R75). -/
def issueEvent (nbits w : Nat) : Event := .write 4 0x00 (BitVec.ofNat 32 (w % 2 ^ nbits))

end Sys2Proof.Machine
end

