-- ==== Sys2Proof/Machine/Step.lean ====
section
/-! DEFINITION. One step of the machine (rule R52), and how a command word is put where the next step takes it up. -/

namespace Sys2Proof.Machine

/-- One atomic step: the next event of the agenda; with nothing on the agenda the host is silent and the block has the
turn (log entry 2). -/
def step (s : State) : Host.Outcome State Fault Refusal :=
  match s.agenda with
  | [] => blockTurn s
  | e :: rest => runEvent e { s with agenda := rest }

/-- The machine about to issue this command word: the host's next access writes it to CMD, and BUSY = 0, as a launch
requires (rule R163). The block has no program counter and no fetch (rules R16, R43): the write to CMD is what makes a
command run (rule R48). -/
def State.withFetchWord (s : State) (nbits w : Nat) : State :=
  { s with status := { s.status with busy := false }, agenda := issueEvent nbits w :: s.agenda }

end Sys2Proof.Machine
end

