-- ==== Sys2Proof/Machine/HostProgram.lean ====
section
/-! DEFINITION. The host's accesses by register name (rules R17, R77) and the pseudo-instructions, each the list of events
it expands to (rule R78), and the host programs of rule R77, whose control flow decides which access comes next. They are
notation for the accesses of a bus master, no instruction set of the block (rule R77). -/

namespace Sys2Proof.Machine

/-- The registers of the window by name (rule R17). -/
inductive Register where
  | cmd
  | status
  | errcode
  | shamtLo
  | shamtHi
  | lenLo
  | lenHi
deriving DecidableEq, Repr

/-- The byte offset of a register from `BW_BASE` (rule R17). -/
def registerOffset : Register → Nat
  | .cmd => 0x00
  | .status => 0x04
  | .errcode => 0x08
  | .shamtLo => 0x0C
  | .shamtHi => 0x10
  | .lenLo => 0x14
  | .lenHi => 0x18

/-- `wr <REG>, <value>` (rule R77). -/
def hostWr (r : Register) (v : Word) : Event := .write 4 (registerOffset r) v

/-- `rd <REG>` (rule R77); the value is `State.rdata` after the step. -/
def hostRd (r : Register) : Event := .read 4 (registerOffset r)

/-- `cmd <command>` (rule R78). -/
def hostCmd (i : Instr) : List Event := [hostWr .cmd (encode i)]

/-- `setamt <n>` (rule R78). The amount has 64 bits: one of 2^64 or more cannot be expressed in SHAMT and is out of scope
(rule R6(e)), so the model gives it no expansion (DESIGN CHOICE, safe: log entry 22). -/
def hostSetAmount (n : Size) : List Event :=
  [hostWr .shamtLo (n.setWidth 32), hostWr .shamtHi ((n >>> 32).setWidth 32)]

/-- `setlen <n>` (rule R78); the length has 64 bits, as the amount of `hostSetAmount` (log entry 22). -/
def hostSetLength (n : Size) : List Event :=
  [hostWr .lenLo (n.setWidth 32), hostWr .lenHi ((n >>> 32).setWidth 32)]

/-- `lshift <n>, <len>` (rule R78); an assembler emits ignored fields as 0 (rule R76). -/
def hostLshift (n len : Size) : List Event := hostSetAmount n ++ hostSetLength len ++ hostCmd (.lsh 0 0)

/-- `rshift <n>, <len>` (rule R78). -/
def hostRshift (n len : Size) : List Event := hostSetAmount n ++ hostSetLength len ++ hostCmd (.rsh 0 0)

/-- `ack` (rule R78): clear DONE, ILLCMD and WBUSY. -/
def hostAck : List Event := [hostWr .status 0x0000000E]

/-! ### Host programs (rule R77) -/

/-- A line of a host program (rule R77). A label is the number of the line it marks, a host variable is a number. `wr` takes
any register: the rule does not list ERRCODE for it, and the window ignores such a write (rule R50; log entry 21). -/
inductive HostLine where
  | wr (r : Register) (value : Word)
  | rd (r : Register) (var : Nat)
  | bnz (var : Nat) (mask : Word) (label : Nat)
  | jmp (label : Nat)
  | halt
deriving DecidableEq, Repr

/-- A host that runs a program (rule R77): the line it is at, and its 32-bit variables, the last value given first. -/
structure HostState where
  line : Nat
  vars : List (Nat × Word)
deriving DecidableEq, Repr

/-- The value of a host variable; `none` before the program has given it one (log entry 21). -/
def HostState.value (h : HostState) (var : Nat) : Option Word := h.vars.lookup var

/-- The host's next line (rule R77), with what the machine does at it: an access is one atomic step of the machine (rules
R46, R47), a branch none. `none` where the program has ended: at `halt` by rule R77; and, where the rule is silent, past
the last line, at a label that marks no line, and at a branch on a variable without a value (DESIGN CHOICE, safe: log
entry 21). Block steps and resets come between lines in any order (rule R52). -/
def hostLineStep (program : List HostLine) (h : HostState) (s : State) : Option (HostState × Outcome) :=
  match program[h.line]? with
  | some (.wr r v) => some ({ h with line := h.line + 1 }, runEvent (hostWr r v) s)
  | some (.rd r x) =>
    some ({ line := h.line + 1, vars := (x, s.register (registerOffset r)) :: h.vars }, runEvent (hostRd r) s)
  | some (.bnz x mask label) =>
    (h.value x).map fun v => ({ h with line := if v &&& mask = 0 then h.line + 1 else label }, .next s)
  | some (.jmp label) => some ({ h with line := label }, .next s)
  | some .halt => none
  | none => none

/-- `wait -> <var>` (rule R78) at line `n` of a program: poll STATUS while BUSY = 1. -/
def hostWait (n var : Nat) : List HostLine := [.rd .status var, .bnz var 0x1 n]

end Sys2Proof.Machine
end

