-- ==== Sys2Proof/Safety.lean ====
section
/-! DEFINITION. The terms in which claims about the machine are stated: runs of several steps, the transaction a state
stands before (rule R34), the invariant of the reachable states, what can be observed of an idle block (rule R33), and the
stream-level meaning of the commands (rules R10, R12, R108, R117, R118). -/

namespace Sys2Proof.Machine

/-! ### Runs -/

/-- `n` steps, stopping at the first fault or refusal. -/
def stepN : Nat → State → Outcome
  | 0, s => .next s
  | n + 1, s =>
    match step s with
    | .next t => stepN n t
    | .fault r => .fault r
    | .refused r => .refused r

/-- An outcome with its next state changed by `f`. -/
def mapNext (f : State → State) : Outcome → Outcome
  | .next s => .next (f s)
  | .fault r => .fault r
  | .refused r => .refused r

/-- The host's only access to come is the write of the command word `w` to CMD, on an idle block with three distinct ports
(rule R163). -/
def State.readyToIssue (s : State) (w : Word) : Prop :=
  s.agenda = [.write 4 0x00 w] ∧ s.status.busy = false ∧ s.portsAliased = false

/-! ### Commands -/

/-- The function a byte form applies to each input byte (rules R79, R81 to R84); `none` for the other commands. -/
def byteFormFunction : Instr → Option (Byte → Byte)
  | .orb imm _ => some fun a => a ||| imm
  | .andb imm _ => some fun a => a &&& imm
  | .xorb imm _ => some fun a => a ^^^ imm
  | .not _ _ => some fun a => ~~~a
  | .lsh _ _ => none
  | .rsh _ _ => none
  | .orf _ _ => none
  | .andf _ _ => none
  | .xorf _ _ => none

/-- The function and the policy of a stream form (rules R79, R92 to R94); `none` for the other commands. -/
def streamFormFunction : Instr → Option ((Byte → Byte → Byte) × Policy)
  | .orf pol _ => some (fun a v => a ||| v, pol)
  | .andf pol _ => some (fun a v => a &&& v, pol)
  | .xorf pol _ => some (fun a v => a ^^^ v, pol)
  | .orb _ _ => none
  | .andb _ _ => none
  | .xorb _ _ => none
  | .not _ _ => none
  | .lsh _ _ => none
  | .rsh _ _ => none

/-- LSH or RSH. -/
def isShift : Instr → Bool
  | .lsh _ _ => true
  | .rsh _ _ => true
  | .orb _ _ => false
  | .andb _ _ => false
  | .xorb _ _ => false
  | .not _ _ => false
  | .orf _ _ => false
  | .andf _ _ => false
  | .xorf _ _ => false

/-- A command with the fields it ignores (rule R74) set to 0. -/
def clearIgnored : Instr → Instr
  | .orb imm _ => .orb imm 0
  | .andb imm _ => .andb imm 0
  | .xorb imm _ => .xorb imm 0
  | .not _ _ => .not 0 0
  | .lsh _ _ => .lsh 0 0
  | .rsh _ _ => .rsh 0 0
  | .orf pol _ => .orf pol 0
  | .andf pol _ => .andf pol 0
  | .xorf pol _ => .xorf pol 0

/-! ### Phases -/

/-- A port transaction (rule R11). -/
inductive Transaction where
  | inRead
  | opRead
  | opRewind
  | outWrite (v : Byte)
deriving DecidableEq, Repr

/-- The one port transaction that PHASE names (rule R34, column "next step"). -/
def State.transaction (s : State) : Option Transaction :=
  match s.phase with
  | .idle => none
  | .bIn | .fIn | .lsSkip | .lsLoad | .lsIn | .rsIn | .rsDrain => some .inRead
  | .fOp => some .opRead
  | .fRew => some .opRewind
  | .bOut | .fOut | .lsOut | .rsOut => some (.outWrite s.hold)
  | .lsTail => some (.outWrite (funnel s.carry 0 (8 - s.bits)))
  | .lsZero | .rsZero => some (.outWrite 0x00)

/-- The port of the named transaction has no answer to give (rules R52, R54). -/
def State.portSilent (s : State) : Prop :=
  match s.transaction with
  | none => False
  | some .inRead => s.input.answers = []
  | some .opRead => s.operand.answers = []
  | some .opRewind => s.operand.rewinds = []
  | some (.outWrite _) => s.output.answers = []

/-- Which commands use a phase (rule R34, column "used by"). -/
def phaseUsedBy : Phase → Instr → Bool
  | .idle, _ => false
  | .bIn, i | .bOut, i => (byteFormFunction i).isSome
  | .fIn, i | .fOp, i | .fOut, i => (streamFormFunction i).isSome
  | .fRew, i => (streamFormFunction i).any (·.2 == .loop)
  | .lsSkip, .lsh _ _ | .lsLoad, .lsh _ _ | .lsIn, .lsh _ _ | .lsOut, .lsh _ _ | .lsTail, .lsh _ _
  | .lsZero, .lsh _ _ => true
  | .rsZero, .rsh _ _ | .rsIn, .rsh _ _ | .rsOut, .rsh _ _ | .rsDrain, .rsh _ _ => true
  | _, _ => false

/-! ### The invariant -/

/-- CNT in the phases of the shifts (rules R125, R127): how many bytes the current phase may still have before it. -/
def State.countInRange (s : State) : Prop :=
  match s.phase with
  | .lsSkip | .rsZero | .lsZero | .rsDrain =>
    0 < s.cnt.toNat ∧ s.cnt.toNat ≤ s.bo.toNat ∧ s.cnt.toNat ≤ s.len.toNat
  | .lsLoad => s.bo.toNat < s.len.toNat
  | .lsIn => 0 < s.cnt.toNat ∧ s.bo.toNat + s.cnt.toNat < s.len.toNat
  | .lsOut => s.bo.toNat + s.cnt.toNat + 1 < s.len.toNat
  | .lsTail => s.cnt = 0 ∧ s.bo.toNat < s.len.toNat
  | .rsIn => 0 < s.cnt.toNat ∧ s.bo.toNat + s.cnt.toNat ≤ s.len.toNat
  | .rsOut => s.bo.toNat + s.cnt.toNat < s.len.toNat
  | .idle | .bIn | .bOut | .fIn | .fOp | .fRew | .fOut => True

/-- Which command and policy a result tag can come from (rule R139, column "commands"; rules R97 to R100). -/
def tagPossible : ResultTag → Instr → Bool
  | .none, _ | .inputRead, _ | .outputWrite, _ => true
  | .operandRead, i => (streamFormFunction i).isSome
  | .operandEOF, i => (streamFormFunction i).any fun f => f.2 == .error || f.2 == .loop
  | .operandSeek, i => (streamFormFunction i).any fun f => f.2 == .loop

/-- What holds of the block at reset and after every step. -/
structure State.Inv (s : State) : Prop where
  /-- CMD holds a legal word (rule R18). -/
  cmd_legal : (decode s.cmd).isSome = true
  /-- BUSY = 1 exactly while a command runs (rules R16, R21). -/
  busy_iff : s.status.busy = true ↔ s.phase ≠ .idle
  /-- PHASE is one of the running command's (rule R34). -/
  phase_used : ∀ i, decode s.cmd = some i → s.status.busy = true → phaseUsedBy s.phase i = true
  /-- While BUSY = 1 DONE, SHORT, RESULT and HASCODE read 0 (rule R166). -/
  busy_clear : s.status.busy = true →
    s.status.done = false ∧ s.status.short = false ∧ s.status.result = .none ∧ s.status.hascode = false
  /-- ERRCODE is 0 whenever HASCODE = 0 (rule R28). -/
  no_code : s.status.hascode = false → s.errcode = 0
  /-- HASCODE is never 1 with None or OperandEOF (rule R27). -/
  code_tag : s.status.hascode = true → s.status.result ≠ .none ∧ s.status.result ≠ .operandEOF
  /-- SHORT comes with InputRead and no code, after a shift (rule R25). -/
  short_tag : s.status.short = true →
    s.status.result = .inputRead ∧ s.status.hascode = false ∧ ∀ i, decode s.cmd = some i → isShift i = true
  /-- RESULT is a tag that the command in CMD can produce (rule R139). -/
  tag_possible : ∀ i, decode s.cmd = some i → tagPossible s.status.result i = true
  /-- CNT stays in the range of its phase (rules R16, R33). -/
  count : s.countInRange
  /-- OPPOS counts the operand bytes since the start or the last rewind, saturating (rules R33, R104). -/
  operand_count : s.status.busy = true →
    s.operand.start ≤ s.operand.pos ∧ s.oppos.toNat = min (s.operand.pos - s.operand.start) (2 ^ 64 - 1)
  /-- OPEOF is set only under ZeroFill or OneFill, and then no `OpRead` is issued (rule R105). -/
  operand_filled : ∀ i f, decode s.cmd = some i → streamFormFunction i = some f → s.status.busy = true →
    s.opeof = true → (f.2 = .zeroFill ∨ f.2 = .oneFill) ∧ s.phase ≠ .fOp ∧ s.phase ≠ .fRew

/-! ### What can be observed -/

/-- A state with the hidden registers CNT, HOLD, CARRY, OPPOS and OPEOF cleared: all that a claim may say of an idle
block, because "a model must not rely on their values while PHASE = IDLE" (rule R33). -/
def State.observable (s : State) : State :=
  { s with cnt := 0, hold := 0, carry := 0, oppos := 0, opeof := false }

/-- The outcome is a next state with the command finished by `tag` and `c` (rule R145) and every observable thing else as
in `s`. -/
def endsWith (o : Outcome) (tag : ResultTag) (c : Option Word) (s : State) : Prop :=
  ∃ t, o = .next t ∧ t.observable =
    { s with
      status := { s.status with result := tag, hascode := c.isSome, busy := false, done := true }
      errcode := c.getD 0
      phase := .idle }.observable

/-- The state in which the command of word `w` has just been accepted (rule R71) and stands before its first transaction:
PHASE is `p`, CNT is `n`, every other hidden register 0, the operand's start where the operand is. -/
def State.launched (s : State) (w : Word) (p : Phase) (n : Size) : State :=
  { s with
    cmd := w
    status := { s.status with busy := true, done := false, short := false, result := .none, hascode := false }
    errcode := 0
    phase := p
    cnt := n
    hold := 0
    carry := 0
    oppos := 0
    opeof := false
    operand := { s.operand with start := s.operand.pos } }

/-- The state after a whole command of word `w` that ran from `s`, a state ready to issue it: the result recorded, the
agenda empty, the streams as given. -/
def State.ran (s : State) (w : Word) (tag : ResultTag) (c : Option Word)
    (inp : InPort) (opd : OperandPort) (out : OutPort) : State :=
  { s with
    cmd := w
    status := { s.status with
      busy := false, done := true, short := false, result := tag, hascode := c.isSome }
    errcode := c.getD 0
    phase := .idle
    input := inp
    operand := opd
    output := out
    agenda := [] }

/-- `n` steps from `s` end in `t`, but for the hidden registers of the idle block. -/
def runsTo (n : Nat) (s t : State) : Prop := ∃ u, stepN n s = .next u ∧ u.observable = t.observable

/-! ### Streams -/

/-- `val(s)` (rule R12): the whole stream as one number, bit 7 of byte 0 the most significant bit. -/
def streamValue : List Byte → Nat
  | [] => 0
  | a :: rest => a.toNat * 256 ^ rest.length + streamValue rest

/-- `bytes_L(V)` (rule R12): the stream of `n` bytes whose value is `v`, for `v < 2^(8n)`. -/
def streamBytes (n v : Nat) : List Byte :=
  (List.range n).map fun i => BitVec.ofNat 8 (v / 256 ^ (n - 1 - i))

/-- `LSHIFT(s, amount)` (rule R117). -/
def leftShift (bs : List Byte) (amount : Nat) : List Byte :=
  streamBytes bs.length (streamValue bs * 2 ^ amount % 2 ^ (8 * bs.length))

/-- `RSHIFT(s, amount)` (rule R118). -/
def rightShift (bs : List Byte) (amount : Nat) : List Byte :=
  streamBytes bs.length (streamValue bs / 2 ^ amount)

/-- A port that delivers these bytes. -/
def bytesThen (bs : List Byte) (rest : List ReadAnswer) : List ReadAnswer := bs.map .byte ++ rest

/-- A port that takes `n` bytes. -/
def oksThen (n : Nat) (rest : List Ack) : List Ack := List.replicate n .ok ++ rest

/-- An operand port that delivers `bs` and then `Eof` on each of `n` passes (rule R108). -/
def passes (n : Nat) (bs : List Byte) : List ReadAnswer := (List.replicate n (bytesThen bs [.eof])).flatten

end Sys2Proof.Machine
end

