-- ==== Sys2Proof/Certificates/Slice0/Obligations.lean ====
section
/-! DEFINITION. The statements about the machine, one definition each. "Stated" statements formalise the numbered rules of
spec/ that their docstrings name; the others rest on those rules. -/

open Sys2Proof Sys2Proof.Machine

/-! ### Encoding -/

/-- Rules R63 to R67, R70: decoding the word of any command gives back the command, every field at every value. -/
def Obligations.DecodeReadsEncoding : Prop := ∀ i : Instr, decode (encode i) = some i

/-- Rules R63, R70, R74: a legal word is the word of the command it decodes to, its ignored bits included. -/
def Obligations.EncodeRestoresWord : Prop := ∀ (w : Word) (i : Instr), decode w = some i → encode i = w

/-- Rule R72: `decode` refuses exactly the words of (a) to (d), and writing one to CMD of an idle block sets ILLCMD and
changes nothing else. -/
def Obligations.IllegalWordsSetIllcmdOnly : Prop :=
  (∀ w : Word, decode w = none ↔
    (w.extractLsb' 16 16 ≠ 0 ∨ w.getLsbD 7 = true)
    ∨ (w.extractLsb' 0 3 = 0b110 ∨ w.extractLsb' 0 3 = 0b111)
    ∨ (w.getLsbD 3 = true
        ∧ (w.extractLsb' 0 3 = 0b011 ∨ w.extractLsb' 0 3 = 0b100 ∨ w.extractLsb' 0 3 = 0b101))
    ∨ (w.getLsbD 3 = true
        ∧ (w.extractLsb' 0 3 = 0b000 ∨ w.extractLsb' 0 3 = 0b001 ∨ w.extractLsb' 0 3 = 0b010)
        ∧ (w.extractLsb' 4 3 = 0b101 ∨ w.extractLsb' 4 3 = 0b110 ∨ w.extractLsb' 4 3 = 0b111)))
  ∧ ∀ (s : State) (w : Word) (rest : List Event),
      s.agenda = .write 4 0x00 w :: rest → s.status.busy = false → decode w = none →
      step s = .next { s with agenda := rest, status := { s.status with illcmd := true } }

/-- Rules R70, R76: words written out from the encoding tables decode to the commands they stand for. -/
def Obligations.WrittenOutWordsDecode : Prop :=
  decode 0x00000F00 = some (.orb 0x0F 0) ∧ decode 0x0000A501 = some (.andb 0xA5 0)
  ∧ decode 0x00005A72 = some (.xorb 0x5A 7) ∧ decode 0x0000FF03 = some (.not 0xFF 0)
  ∧ decode 0x00000004 = some (.lsh 0 0) ∧ decode 0x00000005 = some (.rsh 0 0)
  ∧ decode 0x00000038 = some (.orf .zeroFill 0) ∧ decode 0x00000019 = some (.andf .truncate 0)
  ∧ decode 0x0000FF4A = some (.xorf .oneFill 0xFF)

/-! ### Steps run commands -/

/-- Rules R16, R21, R48, R52, R71: a host write of a legal word to CMD of an idle block runs `exec` of the command it
decodes to, and the turn of a busy block (on the agenda, or with the agenda empty) runs `exec` of the command CMD decodes
to; the step adds only that the event is taken off the agenda. The turn of an idle block takes no step (rules R21, R54,
R145): no stream moves and no register changes (log entry 15, DEDUCED: the model's step answers the state itself). -/
def Obligations.StepRunsDecodedCommand : Prop :=
  ∀ (s : State) (i : Instr) (rest : List Event),
    (∀ w, s.agenda = .write 4 0x00 w :: rest → s.status.busy = false → decode w = some i →
      step s = exec i { s with agenda := rest })
    ∧ (s.agenda = .block :: rest → s.status.busy = true → decode s.cmd = some i →
      step s = exec i { s with agenda := rest })
    ∧ (s.agenda = [] → s.status.busy = true → decode s.cmd = some i → step s = exec i s)
    ∧ (s.agenda = .block :: rest → s.status.busy = false → step s = .next { s with agenda := rest })
    ∧ (s.agenda = [] → s.status.busy = false → step s = .next s)

/-- Rule R74: commands that differ only in ignored fields behave the same in states that differ only in the word CMD holds
(as the states of two such running commands do), but for the word CMD then holds; and CMD reads back the word as
written. -/
def Obligations.IgnoredFieldsHaveNoEffect : Prop :=
  (∀ (i j : Instr) (s : State) (c : Word), clearIgnored i = clearIgnored j →
    mapNext (fun t => { t with cmd := 0 }) (exec i s)
      = mapNext (fun t => { t with cmd := 0 }) (exec j { s with cmd := c }))
  ∧ ∀ (w : Word) (i : Instr) (s t : State) (rest : List Event),
      s.agenda = .write 4 0x00 w :: rest → s.status.busy = false → decode w = some i → step s = .next t →
      t.register 0x00 = w

/-! ### Acceptance -/

/-- Rules R71, R80 (`start_byte`), R81 to R84: on an idle block ORB, ANDB, XORB and NOT are accepted and stand before their
first `InRead`. -/
def Obligations.ByteFormsAccepted : Prop :=
  ∀ (k : Byte) (p : BitVec 3) (s : State), s.status.busy = false → s.portsAliased = false →
    let word (c : Word) : Word := k.setWidth 32 <<< 8 ||| p.setWidth 32 <<< 4 ||| c
    exec (.orb k p) s = .next (s.launched (word 0x0) .bIn 0)
    ∧ exec (.andb k p) s = .next (s.launched (word 0x1) .bIn 0)
    ∧ exec (.xorb k p) s = .next (s.launched (word 0x2) .bIn 0)
    ∧ exec (.not k p) s = .next (s.launched (word 0x3) .bIn 0)

/-- Rules R71, R91 (`start_file`), R92 to R94: on an idle block ORF, ANDF and XORF are accepted under every policy and
stand before their first `InRead`. -/
def Obligations.StreamFormsAccepted : Prop :=
  ∀ (pol : Policy) (k : Byte) (s : State), s.status.busy = false → s.portsAliased = false →
    let code : Word := match pol with
      | .error => 0 | .truncate => 1 | .loop => 2 | .zeroFill => 3 | .oneFill => 4
    let word (c : Word) : Word := k.setWidth 32 <<< 8 ||| code <<< 4 ||| c
    exec (.orf pol k) s = .next (s.launched (word 0x8) .fIn 0)
    ∧ exec (.andf pol k) s = .next (s.launched (word 0x9) .fIn 0)
    ∧ exec (.xorf pol k) s = .next (s.launched (word 0xA) .fIn 0)

/-- Rules R71, R125 (`start_lsh`): on an idle block LSH with LEN > 0 is accepted and stands before the skip of
min(bo, L) bytes, or, with bo = 0, before the load of the carry. -/
def Obligations.LshAccepted : Prop :=
  ∀ (k : Byte) (p : BitVec 3) (s : State), s.status.busy = false → s.portsAliased = false → s.len ≠ 0 →
    let word : Word := k.setWidth 32 <<< 8 ||| p.setWidth 32 <<< 4 ||| 0x4
    exec (.lsh k p) s =
      if s.bo = 0 then .next (s.launched word .lsLoad 0)
      else .next (s.launched word .lsSkip (BitVec.ofNat 64 (min s.bo.toNat s.len.toNat)))

/-- Rules R71, R127 (`start_rsh`): on an idle block RSH with LEN > 0 is accepted and stands before min(bo, L) zero bytes,
or, with bo = 0, before the first of LEN input bytes. -/
def Obligations.RshAccepted : Prop :=
  ∀ (k : Byte) (p : BitVec 3) (s : State), s.status.busy = false → s.portsAliased = false → s.len ≠ 0 →
    let word : Word := k.setWidth 32 <<< 8 ||| p.setWidth 32 <<< 4 ||| 0x5
    exec (.rsh k p) s =
      if s.bo = 0 then .next (s.launched word .rsIn s.len)
      else .next (s.launched word .rsZero (BitVec.ofNat 64 (min s.bo.toNat s.len.toNat)))

/-- Rule R129: an LSH or RSH with LEN = 0 finishes with None inside the accepting host step, whatever SHAMT holds, with no
port transaction and no output. -/
def Obligations.ZeroLengthShiftFinishesAtOnce : Prop :=
  ∀ (w : Word) (i : Instr) (s : State), s.readyToIssue w → decode w = some i → isShift i = true → s.len = 0 →
    runsTo 1 s (s.ran w .none none s.input { s.operand with start := s.operand.pos } s.output)

/-- Rule R62 (log entry 5 for the wiring flag): launching any command while two ports are one stream is refused. -/
def Obligations.AliasedLaunchRefused : Prop :=
  ∀ (i : Instr) (s : State), s.status.busy = false → s.portsAliased = true → exec i s = .refused .aliasedPorts

/-- Rule R33: the hidden registers of an idle block cannot be observed: no host read returns them, and acceptance of a
command sets every one of them. -/
def Obligations.IdleHiddenRegistersUnobservable : Prop :=
  ∀ (s : State) (p : Phase) (n o : Size) (h c : Byte) (e : Bool),
    let u : State := { s with phase := p, cnt := n, hold := h, carry := c, oppos := o, opeof := e }
    (∀ off, u.register off = s.register off)
    ∧ ∀ i, s.status.busy = false → exec i u = exec i s

/-! ### Byte forms -/

/-- Rules R79 to R84 at B_IN: an input byte `a` is consumed and its transformed byte, `a | k`, `a & k`, `a ^ k` or the
complement of `a`, waits in HOLD; nothing else changes. -/
def Obligations.ByteFormsTransformInput : Prop :=
  ∀ (k a : Byte) (p : BitVec 3) (s : State) (rest : List ReadAnswer),
    s.status.busy = true → s.phase = .bIn → s.input.answers = .byte a :: rest →
    let t (v : Byte) : State :=
      { s with phase := .bOut, hold := v, input := { answers := rest, pos := s.input.pos + 1 } }
    exec (.orb k p) s = .next (t (a ||| k)) ∧ exec (.andb k p) s = .next (t (a &&& k))
    ∧ exec (.xorb k p) s = .next (t (a ^^^ k)) ∧ exec (.not k p) s = .next (t (a ^^^ 0xFF))

/-- Rules R80, R85, R86 at B_IN: `Eof` finishes ORB, ANDB, XORB or NOT with None, `Err(c)` with InputRead and c; no byte is
consumed and nothing else observable changes. -/
def Obligations.ByteFormsEndWithInput : Prop :=
  ∀ (i : Instr) (f : Byte → Byte) (s : State) (rest : List ReadAnswer),
    byteFormFunction i = some f → s.status.busy = true → s.phase = .bIn →
    let t : State := { s with input := { s.input with answers := rest } }
    (s.input.answers = .eof :: rest → endsWith (exec i s) .none none t)
    ∧ ∀ c, s.input.answers = .err c :: rest → endsWith (exec i s) .inputRead c t

/-- Rules R80, R87 at B_OUT: `Ok` appends HOLD to the output and returns to B_IN; `Err(c)` appends nothing, reads nothing
and finishes ORB, ANDB, XORB or NOT with OutputWrite and c. -/
def Obligations.ByteFormsWriteHold : Prop :=
  ∀ (i : Instr) (f : Byte → Byte) (s : State) (rest : List Ack),
    byteFormFunction i = some f → s.status.busy = true → s.phase = .bOut →
    (s.output.answers = .ok :: rest →
      exec i s = .next { s with phase := .bIn, output := { answers := rest, written := s.output.written ++ [s.hold] } })
    ∧ ∀ c, s.output.answers = .err c :: rest →
        endsWith (exec i s) .outputWrite c { s with output := { s.output with answers := rest } }

/-- Rules R89, R136: what the operand port would answer, and SHAMT and LEN where the command is a byte form, make no
difference to a running byte form or shift, which leaves them as they are; a byte form also leaves CNT, CARRY, OPPOS and
OPEOF. -/
def Obligations.UnusedInputsMakeNoDifference : Prop :=
  (∀ (i : Instr) (f : Byte → Byte) (s : State) (opd : OperandPort) (sl sh ll lh : Word) (n o : Size) (c : Byte) (e : Bool),
    byteFormFunction i = some f → s.status.busy = true →
    let change (t : State) : State :=
      { t with
        operand := opd, shamtLo := sl, shamtHi := sh, lenLo := ll, lenHi := lh
        cnt := n, oppos := o, carry := c, opeof := e }
    exec i (change s) = mapNext change (exec i s))
  ∧ ∀ (i : Instr) (s : State) (opd : OperandPort) (o : Size) (e : Bool),
    isShift i = true → s.status.busy = true →
    let change (t : State) : State := { t with operand := opd, oppos := o, opeof := e }
    exec i (change s) = mapNext change (exec i s)

/-! ### Stream forms -/

/-- Rules R91, R101, R102, R105 at F_IN, for ORF, ANDF and XORF: an input byte `a` is consumed; with OPEOF = 0 it waits in
HOLD for its operand byte, with OPEOF = 1 it is combined with the fill byte of the policy and no operand transaction
follows. -/
def Obligations.StreamFormsTakeInput : Prop :=
  ∀ (i : Instr) (op : Byte → Byte → Byte) (pol : Policy) (s : State) (a : Byte) (rest : List ReadAnswer),
    streamFormFunction i = some (op, pol) → s.status.busy = true → s.phase = .fIn →
    s.input.answers = .byte a :: rest →
    let t : State := { s with input := { answers := rest, pos := s.input.pos + 1 } }
    (s.opeof = false → exec i s = .next { t with phase := .fOp, hold := a })
    ∧ (s.opeof = true → pol = .zeroFill → exec i s = .next { t with phase := .fOut, hold := op a 0x00 })
    ∧ (s.opeof = true → pol = .oneFill → exec i s = .next { t with phase := .fOut, hold := op a 0xFF })

/-- Rules R91, R110 at F_IN, for ORF, ANDF and XORF: input `Eof` finishes with None, `Err(c)` with InputRead and c, under
every policy, with no operand transaction. -/
def Obligations.StreamFormsEndWithInput : Prop :=
  ∀ (i : Instr) (op : Byte → Byte → Byte) (pol : Policy) (s : State) (rest : List ReadAnswer),
    streamFormFunction i = some (op, pol) → s.status.busy = true → s.phase = .fIn →
    let t : State := { s with input := { s.input with answers := rest } }
    (s.input.answers = .eof :: rest → endsWith (exec i s) .none none t)
    ∧ ∀ c, s.input.answers = .err c :: rest → endsWith (exec i s) .inputRead c t

/-- Rules R79, R92 to R95, R104 at F_OP: an operand byte `v` is consumed and counted, and `HOLD | v`, `HOLD & v` or
`HOLD ^ v` waits to be written; OPPOS stops at 2^64 - 1. -/
def Obligations.StreamFormsCombineOperand : Prop :=
  ∀ (pol : Policy) (k v : Byte) (s : State) (rest : List ReadAnswer),
    s.status.busy = true → s.phase = .fOp → s.operand.answers = .byte v :: rest →
    let t (x : Byte) : State :=
      { s with
        phase := .fOut, hold := x
        oppos := BitVec.ofNat 64 (min (s.oppos.toNat + 1) (2 ^ 64 - 1))
        operand := { s.operand with answers := rest, pos := s.operand.pos + 1 } }
    exec (.orf pol k) s = .next (t (s.hold ||| v)) ∧ exec (.andf pol k) s = .next (t (s.hold &&& v))
    ∧ exec (.xorf pol k) s = .next (t (s.hold ^^^ v))

/-- Rules R95, R97 to R102, R143 at F_OP, for ORF, ANDF and XORF: what an operand `Eof` does under each policy. -/
def Obligations.StreamFormsResolveOperandEof : Prop :=
  ∀ (i : Instr) (op : Byte → Byte → Byte) (pol : Policy) (s : State) (rest : List ReadAnswer),
    streamFormFunction i = some (op, pol) → s.status.busy = true → s.phase = .fOp →
    s.operand.answers = .eof :: rest →
    let t : State := { s with operand := { s.operand with answers := rest } }
    (pol = .error → endsWith (exec i s) .operandEOF none t)
    ∧ (pol = .truncate → endsWith (exec i s) .none none t)
    ∧ (pol = .zeroFill → exec i s = .next { t with phase := .fOut, opeof := true, hold := op s.hold 0x00 })
    ∧ (pol = .oneFill → exec i s = .next { t with phase := .fOut, opeof := true, hold := op s.hold 0xFF })
    ∧ (pol = .loop → s.oppos = 0 → endsWith (exec i s) .operandEOF none t)
    ∧ (pol = .loop → s.oppos ≠ 0 → exec i s = .next { t with phase := .fRew })

/-- Rules R96, R142: an operand `Err(c)` from `OpRead` finishes ORF, ANDF or XORF with OperandRead and c, under every
policy; the input byte in HOLD is not written and no input is read. -/
def Obligations.StreamFormsOperandFailure : Prop :=
  ∀ (i : Instr) (op : Byte → Byte → Byte) (pol : Policy) (s : State) (c : Option Word) (rest : List ReadAnswer),
    streamFormFunction i = some (op, pol) → s.status.busy = true → s.phase = .fOp →
    s.operand.answers = .err c :: rest →
    endsWith (exec i s) .operandRead c { s with operand := { s.operand with answers := rest } }

/-- Rules R55, R95, R100, R144 at F_REW: `Ok` returns the operand to where it stood at acceptance, sets OPPOS to 0 and
reads the operand again; `Err(c)` finishes ORF, ANDF or XORF, under Loop, with OperandSeek and c. -/
def Obligations.StreamFormsRewindOperand : Prop :=
  ∀ (i : Instr) (op : Byte → Byte → Byte) (s : State) (rest : List Ack),
    streamFormFunction i = some (op, .loop) → s.status.busy = true → s.phase = .fRew →
    (s.operand.rewinds = .ok :: rest →
      exec i s = .next
        { s with phase := .fOp, oppos := 0, operand := { s.operand with rewinds := rest, pos := s.operand.start } })
    ∧ ∀ c, s.operand.rewinds = .err c :: rest →
        endsWith (exec i s) .operandSeek c { s with operand := { s.operand with rewinds := rest } }

/-- Rule R91 at F_OUT, for ORF, ANDF and XORF: `Ok` appends HOLD and returns to F_IN; `Err(c)` appends nothing and finishes
with OutputWrite and c. -/
def Obligations.StreamFormsWriteHold : Prop :=
  ∀ (i : Instr) (op : Byte → Byte → Byte) (pol : Policy) (s : State) (rest : List Ack),
    streamFormFunction i = some (op, pol) → s.status.busy = true → s.phase = .fOut →
    (s.output.answers = .ok :: rest →
      exec i s = .next { s with phase := .fIn, output := { answers := rest, written := s.output.written ++ [s.hold] } })
    ∧ ∀ c, s.output.answers = .err c :: rest →
        endsWith (exec i s) .outputWrite c { s with output := { s.output with answers := rest } }

/-! ### Shifts -/

/-- Rule R113: the funnel shifter selects bits j + r of the 16-bit value `hi:lo`; r = 0 gives `lo`, r = 8 gives `hi`; and
the shifts use it with r = 8 - b (LSH, at LS_IN) and r = b (RSH, at RS_IN). -/
def Obligations.FunnelSelectsBits : Prop :=
  (∀ (hi lo : Byte) (r : Nat), r ≤ 8 →
    (funnel hi lo r).toNat = (hi.toNat * 256 + lo.toNat) / 2 ^ r % 256
    ∧ ∀ j, j < 8 → (funnel hi lo r).getLsbD j = if j + r < 8 then lo.getLsbD (j + r) else hi.getLsbD (j + r - 8))
  ∧ (∀ hi lo : Byte, funnel hi lo 0 = lo ∧ funnel hi lo 8 = hi)
  ∧ ∀ (k x : Byte) (p : BitVec 3) (s : State) (rest : List ReadAnswer),
      s.status.busy = true → s.input.answers = .byte x :: rest →
      (s.phase = .lsIn → ∃ t, exec (.lsh k p) s = .next t ∧ t.hold = funnel s.carry x (8 - s.bits))
      ∧ (s.phase = .rsIn → ∃ t, exec (.rsh k p) s = .next t ∧ t.hold = funnel s.carry x s.bits)

/-- Rules R114, R115, read with the 8-bit cut the spec gives them: the funnel shifter computes the source's left-shift and
right-shift bytes from two neighbours, with the bit offset b only. -/
def Obligations.FunnelComputesSourceFormulas : Prop :=
  ∀ (x y : Byte) (b : Nat), b < 8 →
    funnel x y (8 - b) = x <<< b ||| y >>> (8 - b) ∧ funnel x y b = x <<< (8 - b) ||| y >>> b

/-- Rule R125, the input phases of LSH at an input byte `x`. Skipping (LS_SKIP) counts down and, at the end, goes on to
zeros when bo >= L, else to the load; loading (LS_LOAD) keeps `x` in CARRY; shifting (LS_IN) puts the byte made of CARRY
and `x` in HOLD. -/
def Obligations.LshInputSteps : Prop :=
  ∀ (k x : Byte) (p : BitVec 3) (s : State) (rest : List ReadAnswer),
    s.status.busy = true → s.input.answers = .byte x :: rest →
    let t : State := { s with input := { answers := rest, pos := s.input.pos + 1 } }
    (s.phase = .lsSkip → 1 < s.cnt.toNat → exec (.lsh k p) s = .next { t with cnt := s.cnt - 1 })
    ∧ (s.phase = .lsSkip → s.cnt = 1 → s.len.toNat ≤ s.bo.toNat →
        exec (.lsh k p) s = .next { t with cnt := s.len, phase := .lsZero })
    ∧ (s.phase = .lsSkip → s.cnt = 1 → s.bo.toNat < s.len.toNat →
        exec (.lsh k p) s = .next { t with cnt := 0, phase := .lsLoad })
    ∧ (s.phase = .lsLoad → s.bo.toNat + 1 < s.len.toNat →
        exec (.lsh k p) s = .next { t with carry := x, cnt := s.len - s.bo - 1, phase := .lsIn })
    ∧ (s.phase = .lsLoad → s.bo.toNat + 1 = s.len.toNat →
        exec (.lsh k p) s = .next { t with carry := x, cnt := 0, phase := .lsTail })
    ∧ (s.phase = .lsIn → 0 < s.cnt.toNat →
        exec (.lsh k p) s =
          .next { t with
            hold := s.carry <<< (s.shamt.toNat % 8) ||| x >>> (8 - s.shamt.toNat % 8), carry := x, cnt := s.cnt - 1
            phase := .lsOut })

/-- Rule R125, the output phases of LSH at `Ok`: HOLD is written (LS_OUT), then the tail byte made of CARRY and 0 (LS_TAIL),
then bo zero bytes (LS_ZERO); the last write finishes with None. -/
def Obligations.LshOutputSteps : Prop :=
  ∀ (k : Byte) (p : BitVec 3) (s : State) (rest : List Ack),
    s.status.busy = true → s.output.answers = .ok :: rest →
    let t (v : Byte) : State := { s with output := { answers := rest, written := s.output.written ++ [v] } }
    let tail : Byte := s.carry <<< (s.shamt.toNat % 8)
    (s.phase = .lsOut → s.cnt ≠ 0 → exec (.lsh k p) s = .next { t s.hold with phase := .lsIn })
    ∧ (s.phase = .lsOut → s.cnt = 0 → exec (.lsh k p) s = .next { t s.hold with phase := .lsTail })
    ∧ (s.phase = .lsTail → s.bo ≠ 0 → exec (.lsh k p) s = .next { t tail with cnt := s.bo, phase := .lsZero })
    ∧ (s.phase = .lsTail → s.bo = 0 → endsWith (exec (.lsh k p) s) .none none (t tail))
    ∧ (s.phase = .lsZero → 1 < s.cnt.toNat → exec (.lsh k p) s = .next { t 0x00 with cnt := s.cnt - 1 })
    ∧ (s.phase = .lsZero → s.cnt = 1 → endsWith (exec (.lsh k p) s) .none none (t 0x00))

/-- Rule R127, the input phases of RSH at an input byte `x`: shifting (RS_IN) puts the byte made of CARRY and `x` in HOLD;
draining (RS_DRAIN) counts down, and the last byte finishes with None. -/
def Obligations.RshInputSteps : Prop :=
  ∀ (k x : Byte) (p : BitVec 3) (s : State) (rest : List ReadAnswer),
    s.status.busy = true → s.input.answers = .byte x :: rest →
    let t : State := { s with input := { answers := rest, pos := s.input.pos + 1 } }
    (s.phase = .rsIn → 0 < s.cnt.toNat →
      exec (.rsh k p) s =
        .next { t with
          hold := s.carry <<< (8 - s.shamt.toNat % 8) ||| x >>> (s.shamt.toNat % 8), carry := x, cnt := s.cnt - 1
          phase := .rsOut })
    ∧ (s.phase = .rsDrain → 1 < s.cnt.toNat → exec (.rsh k p) s = .next { t with cnt := s.cnt - 1 })
    ∧ (s.phase = .rsDrain → s.cnt = 1 → endsWith (exec (.rsh k p) s) .none none t)

/-- Rule R127, the output phases of RSH at `Ok`: min(bo, L) zero bytes first (RS_ZERO), then, unless bo >= L, each shifted
byte (RS_OUT), after the last of which bo input bytes are drained, or the command finishes with None when bo = 0. -/
def Obligations.RshOutputSteps : Prop :=
  ∀ (k : Byte) (p : BitVec 3) (s : State) (rest : List Ack),
    s.status.busy = true → s.output.answers = .ok :: rest →
    let t (v : Byte) : State := { s with output := { answers := rest, written := s.output.written ++ [v] } }
    (s.phase = .rsZero → 1 < s.cnt.toNat → exec (.rsh k p) s = .next { t 0x00 with cnt := s.cnt - 1 })
    ∧ (s.phase = .rsZero → s.cnt = 1 → s.len.toNat ≤ s.bo.toNat →
        exec (.rsh k p) s = .next { t 0x00 with cnt := s.len, phase := .rsDrain })
    ∧ (s.phase = .rsZero → s.cnt = 1 → s.bo.toNat < s.len.toNat →
        exec (.rsh k p) s = .next { t 0x00 with carry := 0x00, cnt := s.len - s.bo, phase := .rsIn })
    ∧ (s.phase = .rsOut → s.cnt ≠ 0 → exec (.rsh k p) s = .next { t s.hold with phase := .rsIn })
    ∧ (s.phase = .rsOut → s.cnt = 0 → s.bo ≠ 0 →
        exec (.rsh k p) s = .next { t s.hold with cnt := s.bo, phase := .rsDrain })
    ∧ (s.phase = .rsOut → s.cnt = 0 → s.bo = 0 → endsWith (exec (.rsh k p) s) .none none (t s.hold))

/-- Rule R130: an input `Eof` in LS_SKIP, LS_LOAD or LS_IN of LSH, or in RS_IN or RS_DRAIN of RSH, sets SHORT and finishes
with InputRead and no code; the output keeps every byte written. -/
def Obligations.ShiftInputEndsShort : Prop :=
  ∀ (i : Instr) (s : State) (rest : List ReadAnswer),
    isShift i = true → s.status.busy = true → phaseUsedBy s.phase i = true →
    s.phase ∈ [.lsSkip, .lsLoad, .lsIn, .rsIn, .rsDrain] → s.input.answers = .eof :: rest →
    endsWith (exec i s) .inputRead none
      { s with status := { s.status with short := true }, input := { s.input with answers := rest } }

/-- Rule R131: an input `Err(c)` in any input phase of LSH or RSH finishes with InputRead and c; the output keeps every
byte written. -/
def Obligations.ShiftInputFailure : Prop :=
  ∀ (i : Instr) (s : State) (c : Option Word) (rest : List ReadAnswer),
    isShift i = true → s.status.busy = true → phaseUsedBy s.phase i = true →
    s.phase ∈ [.lsSkip, .lsLoad, .lsIn, .rsIn, .rsDrain] → s.input.answers = .err c :: rest →
    endsWith (exec i s) .inputRead c { s with input := { s.input with answers := rest } }

/-- Rule R132: an output `Err(c)` in LS_OUT, LS_TAIL or LS_ZERO of LSH, or in RS_ZERO or RS_OUT of RSH, finishes with
OutputWrite and c; the offered byte is not written and nothing more is read or written. -/
def Obligations.ShiftOutputFailure : Prop :=
  ∀ (i : Instr) (s : State) (c : Option Word) (rest : List Ack),
    isShift i = true → s.status.busy = true → phaseUsedBy s.phase i = true →
    s.phase ∈ [.lsOut, .lsTail, .lsZero, .rsZero, .rsOut] → s.output.answers = .err c :: rest →
    endsWith (exec i s) .outputWrite c { s with output := { s.output with answers := rest } }

/-! ### Block steps in general -/

/-- Rules R52, R54, R170: a running command whose port gives no answer is held in its phase: nothing changes. -/
def Obligations.SilentPortHoldsCommand : Prop :=
  ∀ (i : Instr) (s : State), s.status.busy = true → phaseUsedBy s.phase i = true → s.portSilent →
    exec i s = .next s

/-- Rules R34, R44, R53, R57: a block step performs at most the one transaction that PHASE names, moves at most one byte,
and leaves the other ports, the registers CMD, SHAMT and LEN, the sticky bits and everything outside the block alone. -/
def Obligations.BlockStepIsOneTransaction : Prop :=
  ∀ (i : Instr) (s t : State), s.status.busy = true → exec i s = .next t →
    (t.cmd = s.cmd ∧ t.shamt = s.shamt ∧ t.len = s.len ∧ t.status.illcmd = s.status.illcmd
      ∧ t.status.wbusy = s.status.wbusy ∧ t.portsAliased = s.portsAliased ∧ t.agenda = s.agenda ∧ t.rdata = s.rdata
      ∧ t.operand.start = s.operand.start)
    ∧ match s.transaction with
      | none => False
      | some .inRead =>
        t.operand = s.operand ∧ t.output = s.output
        ∧ (s.input.answers = [] ∧ t = s
          ∨ (∃ v, s.input.answers = .byte v :: t.input.answers ∧ t.input.pos = s.input.pos + 1)
          ∨ ((∃ c, s.input.answers = .err c :: t.input.answers) ∨ s.input.answers = .eof :: t.input.answers)
            ∧ t.input.pos = s.input.pos)
      | some .opRead =>
        t.input = s.input ∧ t.output = s.output ∧ t.operand.rewinds = s.operand.rewinds
        ∧ (s.operand.answers = [] ∧ t = s
          ∨ (∃ v, s.operand.answers = .byte v :: t.operand.answers ∧ t.operand.pos = s.operand.pos + 1)
          ∨ ((∃ c, s.operand.answers = .err c :: t.operand.answers) ∨ s.operand.answers = .eof :: t.operand.answers)
            ∧ t.operand.pos = s.operand.pos)
      | some .opRewind =>
        t.input = s.input ∧ t.output = s.output ∧ t.operand.answers = s.operand.answers
        ∧ (s.operand.rewinds = [] ∧ t = s
          ∨ s.operand.rewinds = .ok :: t.operand.rewinds ∧ t.operand.pos = s.operand.start
          ∨ (∃ c, s.operand.rewinds = .err c :: t.operand.rewinds) ∧ t.operand.pos = s.operand.pos)
      | some (.outWrite v) =>
        t.input = s.input ∧ t.operand = s.operand
        ∧ (s.output.answers = [] ∧ t = s
          ∨ s.output.answers = .ok :: t.output.answers ∧ t.output.written = s.output.written ++ [v]
          ∨ (∃ c, s.output.answers = .err c :: t.output.answers) ∧ t.output.written = s.output.written)

/-- Rules R138, R145, R150: a block step that ends the command does so by recording a result: PHASE is IDLE, BUSY 0 and
DONE 1 together, ERRCODE is 0 when there is no code; a block step that does not end it leaves STATUS and ERRCODE alone. -/
def Obligations.BlockStepRecordsOnlyAtFinish : Prop :=
  ∀ (i : Instr) (s t : State), s.status.busy = true → phaseUsedBy s.phase i = true → exec i s = .next t →
    (t.status = s.status ∧ t.errcode = s.errcode)
    ∨ (t.phase = .idle ∧ t.status.busy = false ∧ t.status.done = true ∧ tagPossible t.status.result i = true
      ∧ (t.status.hascode = false → t.errcode = 0)
      ∧ (t.status.hascode = true → t.status.result ≠ .none ∧ t.status.result ≠ .operandEOF)
      ∧ (t.status.short = s.status.short
        ∨ t.status.short = true ∧ t.status.result = .inputRead ∧ t.status.hascode = false ∧ isShift i = true))

/-! ### The register window -/

/-- Rules R17, R31, R46: a host read returns the register at its offset, 0 at 0x1C, and changes no state of the block or of
the streams. -/
def Obligations.HostReadReturnsRegister : Prop :=
  ∀ (s : State) (off : Nat) (rest : List Event), s.agenda = .read 4 off :: rest →
    off ∈ [0x00, 0x04, 0x08, 0x0C, 0x10, 0x14, 0x18, 0x1C] →
    step s = .next
      { s with
        agenda := rest
        rdata :=
          if off = 0x00 then s.cmd else if off = 0x04 then s.status.word else if off = 0x08 then s.errcode
          else if off = 0x0C then s.shamtLo else if off = 0x10 then s.shamtHi else if off = 0x14 then s.lenLo
          else if off = 0x18 then s.lenHi else 0 }

/-- Rule R20: the places of the STATUS fields, the reserved bits 0, the reset value 0, and what a host write to STATUS
clears; it is allowed while BUSY = 1. -/
def Obligations.StatusFieldsAndClearing : Prop :=
  (∀ st : Status,
    st.word.getLsbD 0 = st.busy ∧ st.word.getLsbD 1 = st.done ∧ st.word.getLsbD 2 = st.illcmd
    ∧ st.word.getLsbD 3 = st.wbusy ∧ st.word.getLsbD 4 = st.short ∧ st.word.extractLsb' 5 3 = 0
    ∧ st.word.extractLsb' 8 3 = (match st.result with
        | .none => 0 | .inputRead => 1 | .outputWrite => 2 | .operandRead => 3 | .operandEOF => 4 | .operandSeek => 5)
    ∧ st.word.getLsbD 11 = st.hascode ∧ st.word.extractLsb' 12 20 = 0)
  ∧ State.reset.status.word = 0
  ∧ ∀ (s : State) (v : Word) (rest : List Event), s.agenda = .write 4 0x04 v :: rest →
      step s = .next
        { s with
          agenda := rest
          status := { s.status with
            done := if v.getLsbD 1 then false else s.status.done
            illcmd := if v.getLsbD 2 then false else s.status.illcmd
            wbusy := if v.getLsbD 3 then false else s.status.wbusy } }

/-- Rules R47, R50, R147: what a host write does, by offset; a write to CMD is the acceptance of rule R71, which ignores it
while BUSY = 1, ignores an illegal word, and else runs the command; a write to a frozen register while BUSY = 1 sets WBUSY
and does nothing else. -/
def Obligations.HostWriteByOffset : Prop :=
  ∀ (s : State) (off : Nat) (v : Word) (rest : List Event), s.agenda = .write 4 off v :: rest →
    let s' : State := { s with agenda := rest }
    let busy : State := { s' with status := { s.status with wbusy := true } }
    (off = 0x00 → step s =
      if s.status.busy then .next busy
      else match decode v with
        | none => .next { s' with status := { s.status with illcmd := true } }
        | some i => exec i s')
    ∧ (off = 0x04 → step s = .next { s' with status := { s.status with
        done := s.status.done && !v.getLsbD 1, illcmd := s.status.illcmd && !v.getLsbD 2
        wbusy := s.status.wbusy && !v.getLsbD 3 } })
    ∧ (off = 0x08 → step s = .next s')
    ∧ (off = 0x0C → step s = .next (if s.status.busy then busy else { s' with shamtLo := v }))
    ∧ (off = 0x10 → step s = .next (if s.status.busy then busy else { s' with shamtHi := v }))
    ∧ (off = 0x14 → step s = .next (if s.status.busy then busy else { s' with lenLo := v }))
    ∧ (off = 0x18 → step s = .next (if s.status.busy then busy else { s' with lenHi := v }))
    ∧ (off = 0x1C → step s = .next s')

/-- Rules R29, R30, R42: SHAMT and LEN are HI * 2^32 + LO, the byte and bit offsets are SHAMT / 8 and SHAMT % 8. -/
def Obligations.WideRegistersFromHalves : Prop :=
  ∀ s : State,
    s.shamt.toNat = s.shamtHi.toNat * 2 ^ 32 + s.shamtLo.toNat
    ∧ s.len.toNat = s.lenHi.toNat * 2 ^ 32 + s.lenLo.toNat
    ∧ s.bo.toNat = s.shamt.toNat / 8 ∧ s.bits = s.shamt.toNat % 8

/-- Rules R42, R76 to R78, R167: on an idle block `setamt` and `setlen` leave SHAMT and LEN at the 64-bit values given and
change nothing else, and `lshift` and `rshift` then write the words of LSH and RSH to CMD (log entry 22: the expansions take
64-bit values only). -/
def Obligations.PseudoInstructionsLoadParameters : Prop :=
  ∀ (s : State) (n len : Size) (rest : List Event), s.status.busy = false →
    (s.agenda = hostSetAmount n ++ rest → ∃ lo hi, stepN 2 s = .next { s with agenda := rest, shamtLo := lo, shamtHi := hi }
      ∧ hi.toNat * 2 ^ 32 + lo.toNat = n.toNat)
    ∧ (s.agenda = hostSetLength len ++ rest → ∃ lo hi, stepN 2 s = .next { s with agenda := rest, lenLo := lo, lenHi := hi }
      ∧ hi.toNat * 2 ^ 32 + lo.toNat = len.toNat)
    ∧ ∀ w : Word,
      (s.agenda = hostLshift n len ++ rest ∧ w = 0x00000004 ∨ s.agenda = hostRshift n len ++ rest ∧ w = 0x00000005) →
      ∃ t, stepN 4 s = .next t ∧ t.shamt = n ∧ t.len = len
        ∧ t = { s with
          shamtLo := t.shamtLo, shamtHi := t.shamtHi, lenLo := t.lenLo, lenHi := t.lenHi
          agenda := .write 4 0x00 w :: rest }

/-- Rules R46, R77, R78: at the two lines of `wait` the host reads STATUS and, whatever the machine has done since, goes back
while the bit 0 it read is 1 and on when it is 0; no register of the machine changes. -/
def Obligations.HostWaitPolls : Prop :=
  ∀ (program rest : List HostLine) (n x : Nat) (h : HostState) (s t : State),
    program.drop n = hostWait n x ++ rest → h.line = n →
    ∃ h1 h2, hostLineStep program h s = some (h1, .next { s with rdata := s.status.word })
      ∧ hostLineStep program h1 t = some (h2, .next t)
      ∧ h2.line = (if s.status.busy then n else n + 2)
      ∧ h2.value x = some s.status.word

/-- Rule R45: inside the window a host access that is not 32 bits wide and 4-byte aligned is refused. The rest is the
model's, DEDUCED from rules R31 and R51: an access at or beyond offset 0x20 is refused as outside the block, whatever its
width (log entry 9), and a bus address is turned into an offset from the open `BW_BASE` (log entry 10). -/
def Obligations.OtherAccessesRefused : Prop :=
  (∀ (s : State) (width off : Nat) (v : Word) (e : Event) (rest : List Event), s.agenda = e :: rest →
    (e = .read width off ∨ e = .write width off v) →
    (0x20 ≤ off → step s = .refused .outsideWindow)
    ∧ (off < 0x20 → (width ≠ 4 ∨ off % 4 ≠ 0) → step s = .refused .accessShape))
  ∧ ∀ (addr width : Nat) (v : Word),
      (∀ off, off < 32 → addr = Config.bwBase + off →
        memRead addr width = some (.read width off) ∧ memWrite addr width v = some (.write width off v))
      ∧ (addr < Config.bwBase ∨ Config.bwBase + 32 ≤ addr →
        memRead addr width = none ∧ memWrite addr width v = none)

/-! ### Reset -/

/-- Rule R38, with R160 for the event: after reset every register of the window reads 0 and every hidden register holds its
reset value, `done_o` is 0; the streams stay as they are. The state after power-on is such a state. -/
def Obligations.ResetRestoresBlock : Prop :=
  (∀ (s : State) (rest : List Event), s.agenda = .reset :: rest →
    ∃ t, step s = .next t ∧ (∀ off, t.register off = 0)
      ∧ t.status = ⟨false, false, false, false, false, .none, false⟩
      ∧ t.phase = .idle ∧ t.cnt = 0 ∧ t.hold = 0 ∧ t.carry = 0 ∧ t.oppos = 0 ∧ t.opeof = false ∧ t.doneO = false
      ∧ t.input = s.input ∧ t.operand = s.operand ∧ t.output = s.output ∧ t.portsAliased = s.portsAliased
      ∧ t.agenda = rest ∧ t.rdata = s.rdata)
  ∧ (∀ off, State.reset.register off = 0)
  ∧ State.reset.phase = .idle ∧ State.reset.cnt = 0 ∧ State.reset.hold = 0 ∧ State.reset.carry = 0
  ∧ State.reset.oppos = 0 ∧ State.reset.opeof = false ∧ State.reset.doneO = false

/-! ### Whole-machine rules -/

/-- The invariant holds after reset (rules R18, R38). -/
def Obligations.ResetHasInvariant : Prop := State.reset.Inv

/-- Every step, of host, block or reset, keeps the invariant `State.Inv` (rules R16, R18, R21, R25 to R28, R33, R34, R104,
R105, R139, R166). -/
def Obligations.StepKeepsInvariant : Prop := ∀ s t : State, s.Inv → step s = .next t → t.Inv

/-- Rules R138, R148: from a state with the invariant no step faults; a step can be refused only for a host access or for a
launch with two ports on one stream (log entry 6 for the two faults). -/
def Obligations.InvariantStatesNeverFault : Prop :=
  ∀ s : State, s.Inv →
    (∀ r, step s ≠ .fault r)
    ∧ ∀ r, step s = .refused r → ∃ e rest, s.agenda = e :: rest ∧ e ≠ .block ∧ e ≠ .reset

/-- Rule R39: while BUSY = 1 no step but reset changes CMD, SHAMT_LO, SHAMT_HI, LEN_LO or LEN_HI. -/
def Obligations.ParametersFrozenWhileBusy : Prop :=
  ∀ s t : State, s.status.busy = true → s.agenda.head? ≠ some .reset → step s = .next t →
    t.cmd = s.cmd ∧ t.shamtLo = s.shamtLo ∧ t.shamtHi = s.shamtHi ∧ t.lenLo = s.lenLo ∧ t.lenHi = s.lenHi

/-- Rules R18, R48, R162: a command starts (BUSY rises, DONE rises on an idle block, or CMD changes) only at a host write
of a legal word to CMD, unless reset clears CMD. -/
def Obligations.OnlyCmdWriteStartsCommand : Prop :=
  ∀ s t : State, s.status.busy = false → s.agenda.head? ≠ some .reset → step s = .next t →
    (t.status.busy = true ∨ t.status.done = true ∧ s.status.done = false ∨ t.cmd ≠ s.cmd) →
    ∃ w rest i, s.agenda = .write 4 0x00 w :: rest ∧ decode w = some i

/-- Rules R23, R24: ILLCMD is set only by an illegal word written to CMD while BUSY = 0, WBUSY only by a write to a frozen
register while BUSY = 1; each is cleared only by a host write with its bit set or by reset. -/
def Obligations.StickyBitsSetAndCleared : Prop :=
  ∀ s t : State, step s = .next t →
    (t.status.illcmd = match s.agenda.head? with
      | some .reset => false
      | some (.write _ off v) =>
        if off = 0x04 then s.status.illcmd && !v.getLsbD 2
        else if off = 0x00 ∧ s.status.busy = false ∧ decode v = none then true
        else s.status.illcmd
      | _ => s.status.illcmd)
    ∧ t.status.wbusy = match s.agenda.head? with
      | some .reset => false
      | some (.write _ off v) =>
        if off = 0x04 then s.status.wbusy && !v.getLsbD 3
        else if off ∈ [0x00, 0x0C, 0x10, 0x14, 0x18] ∧ s.status.busy = true then true
        else s.status.wbusy
      | _ => s.status.wbusy

/-! ### Whole commands on whole streams -/

/-- Rule R88 (with R71, R85, R86, R171): a byte form on an input of L bytes writes the L transformed bytes in 2L + 1 block
steps after the CMD write; it finishes with None at `Eof`, with InputRead and c at `Err(c)`. -/
def Obligations.ByteFormTransformsStream : Prop :=
  ∀ (w : Word) (i : Instr) (f : Byte → Byte) (s : State) (bs : List Byte) (rest : List ReadAnswer) (oks : List Ack),
    s.readyToIssue w → decode w = some i → byteFormFunction i = some f →
    s.output.answers = oksThen bs.length oks →
    let opd : OperandPort := { s.operand with start := s.operand.pos }
    let inp : InPort := { answers := rest, pos := s.input.pos + bs.length }
    let out : OutPort := { answers := oks, written := s.output.written ++ bs.map f }
    (s.input.answers = bytesThen bs (.eof :: rest) →
      runsTo (2 * bs.length + 2) s (s.ran w .none none inp opd out))
    ∧ ∀ c, s.input.answers = bytesThen bs (.err c :: rest) →
        runsTo (2 * bs.length + 2) s (s.ran w .inputRead c inp opd out)

/-- Rules R109, R110 (rows where the operand does not end first): under every policy a stream form on L input bytes and L
operand bytes writes the L combined bytes in 3L + 1 block steps and finishes with None, whatever the operand holds
beyond. -/
def Obligations.StreamFormCombinesStreams : Prop :=
  ∀ (w : Word) (i : Instr) (op : Byte → Byte → Byte) (pol : Policy) (s : State) (bs os : List Byte)
    (rest opRest : List ReadAnswer) (oks : List Ack),
    s.readyToIssue w → decode w = some i → streamFormFunction i = some (op, pol) → os.length = bs.length →
    s.input.answers = bytesThen bs (.eof :: rest) → s.operand.answers = bytesThen os opRest →
    s.output.answers = oksThen bs.length oks →
    runsTo (3 * bs.length + 2) s
      (s.ran w .none none
        { answers := rest, pos := s.input.pos + bs.length }
        { s.operand with answers := opRest, pos := s.operand.pos + bs.length, start := s.operand.pos }
        { answers := oks, written := s.output.written ++ List.zipWith op bs os })

/-- Rules R97 to R99, R106, R109 (rows Error and Truncate with L > N, Loop with N = 0 and L > 0): an operand that ends after
N bytes ends the command with OperandEOF under Error, with None under Truncate, and, where N = 0, with OperandEOF under
Loop; the output is the combined prefix of N bytes, and the input byte in hand is consumed and not written. -/
def Obligations.StreamFormStopsWithOperand : Prop :=
  ∀ (w : Word) (i : Instr) (op : Byte → Byte → Byte) (pol : Policy) (s : State) (bs os : List Byte) (x : Byte)
    (rest opRest : List ReadAnswer) (oks : List Ack),
    s.readyToIssue w → decode w = some i → streamFormFunction i = some (op, pol) → os.length = bs.length →
    s.input.answers = bytesThen bs (.byte x :: rest) → s.operand.answers = bytesThen os (.eof :: opRest) →
    s.output.answers = oksThen bs.length oks →
    let t (tag : ResultTag) : State :=
      s.ran w tag none
        { answers := rest, pos := s.input.pos + bs.length + 1 }
        { s.operand with answers := opRest, pos := s.operand.pos + bs.length, start := s.operand.pos }
        { answers := oks, written := s.output.written ++ List.zipWith op bs os }
    (pol = .error → runsTo (3 * bs.length + 3) s (t .operandEOF))
    ∧ (pol = .truncate → runsTo (3 * bs.length + 3) s (t .none))
    ∧ (pol = .loop → os = [] → runsTo 3 s (t .operandEOF))

/-- Rules R101 to R103, R108, R109 (rows ZeroFill and OneFill with L > N), R171: the operand byte is 0x00 or 0xFF from the
operand's end on; the whole input is written in 2L + N + 2 block steps, with no operand transaction after the first
`Eof`. -/
def Obligations.StreamFormFillsOperand : Prop :=
  ∀ (w : Word) (i : Instr) (op : Byte → Byte → Byte) (pol : Policy) (v : Byte) (s : State) (bs os : List Byte)
    (rest opRest : List ReadAnswer) (oks : List Ack),
    s.readyToIssue w → decode w = some i → streamFormFunction i = some (op, pol) →
    (pol = .zeroFill ∧ v = 0x00 ∨ pol = .oneFill ∧ v = 0xFF) → os.length < bs.length →
    s.input.answers = bytesThen bs (.eof :: rest) → s.operand.answers = bytesThen os (.eof :: opRest) →
    s.output.answers = oksThen bs.length oks →
    runsTo (2 * bs.length + os.length + 3) s
      (s.ran w .none none
        { answers := rest, pos := s.input.pos + bs.length }
        { s.operand with answers := opRest, pos := s.operand.pos + os.length, start := s.operand.pos }
        { answers := oks
          written := s.output.written ++ List.zipWith op bs (os ++ List.replicate (bs.length - os.length) v) })

/-- Rules R100, R103, R108, R109 (row Loop), R171: an operand of N > 0 bytes repeats cyclically: input byte i is combined
with operand byte i mod N, in 3L + 1 block steps plus two for each of the (L - 1) / N wraps. -/
def Obligations.StreamFormLoopsOperand : Prop :=
  ∀ (w : Word) (i : Instr) (op : Byte → Byte → Byte) (s : State) (bs os : List Byte) (n : Nat)
    (rest : List ReadAnswer) (oks : List Ack),
    s.readyToIssue w → decode w = some i → streamFormFunction i = some (op, .loop) →
    0 < os.length → bs.length ≤ n * os.length →
    s.input.answers = bytesThen bs (.eof :: rest) → s.operand.answers = passes n os →
    s.operand.rewinds = List.replicate n .ok → s.output.answers = oksThen bs.length oks →
    let wraps := (bs.length - 1) / os.length
    runsTo (3 * bs.length + 2 * wraps + 2) s
      (s.ran w .none none
        { answers := rest, pos := s.input.pos + bs.length }
        { answers := s.operand.answers.drop (bs.length + wraps), rewinds := List.replicate (n - wraps) .ok
          pos := s.operand.pos + (bs.length - wraps * os.length), start := s.operand.pos }
        { answers := oks
          written := s.output.written ++ bs.mapIdx fun j a => op a (os.getD (j % os.length) 0) })

/-- Rules R117, R119, R133 to R135, R171: LSH on the LEN bytes its input delivers writes exactly the whole-stream left shift
by SHAMT, for every amount, consuming LEN bytes and no more, in 2 LEN block steps, and finishes with None. -/
def Obligations.LshShiftsWholeStream : Prop :=
  ∀ (w : Word) (k : Byte) (p : BitVec 3) (s : State) (bs : List Byte) (rest : List ReadAnswer) (oks : List Ack),
    s.readyToIssue w → decode w = some (.lsh k p) → s.len.toNat = bs.length →
    s.input.answers = bytesThen bs rest → s.output.answers = oksThen bs.length oks →
    runsTo (2 * bs.length + 1) s
      (s.ran w .none none
        { answers := rest, pos := s.input.pos + bs.length }
        { s.operand with start := s.operand.pos }
        { answers := oks, written := s.output.written ++ leftShift bs s.shamt.toNat })

/-- Rules R118, R119, R133 to R135, R171: RSH on the LEN bytes its input delivers writes exactly the whole-stream right
shift by SHAMT, for every amount, consuming LEN bytes and no more, in 2 LEN block steps, and finishes with None. -/
def Obligations.RshShiftsWholeStream : Prop :=
  ∀ (w : Word) (k : Byte) (p : BitVec 3) (s : State) (bs : List Byte) (rest : List ReadAnswer) (oks : List Ack),
    s.readyToIssue w → decode w = some (.rsh k p) → s.len.toNat = bs.length →
    s.input.answers = bytesThen bs rest → s.output.answers = oksThen bs.length oks →
    runsTo (2 * bs.length + 1) s
      (s.ran w .none none
        { answers := rest, pos := s.input.pos + bs.length }
        { s.operand with start := s.operand.pos }
        { answers := oks, written := s.output.written ++ rightShift bs s.shamt.toNat })

/-- Rule R90: XORB with a constant k, run on the output of XORB with k, gives the input back, and so does NOT run on the
output of NOT. -/
def Obligations.ByteFormsUndoThemselves : Prop :=
  ∀ (i : Instr) (w w' : Word) (s s' t : State) (bs ys : List Byte) (rest rest' : List ReadAnswer) (oks oks' : List Ack),
    ((∃ k p, i = .xorb k p) ∨ ∃ k p, i = .not k p) →
    decode w = some i → decode w' = some i → s.readyToIssue w → s'.readyToIssue w' →
    s.input.answers = bytesThen bs (.eof :: rest) → s.output.answers = oksThen bs.length oks →
    stepN (2 * bs.length + 2) s = .next t → t.output.written = s.output.written ++ ys →
    s'.input.answers = bytesThen ys (.eof :: rest') → s'.output.answers = oksThen ys.length oks' →
    ∃ t', stepN (2 * bs.length + 2) s' = .next t' ∧ t'.output.written = s'.output.written ++ bs

/-- Rule R137: two shifts in the same direction, the second run on the output of the first, give what one shift by the sum
of the amounts gives; by n and then 8 - n is the case of one full byte. -/
def Obligations.ShiftsCompose : Prop :=
  ∀ (i : Instr) (w : Word) (s1 s2 s3 t1 t2 t3 : State) (bs ys : List Byte) (rest1 rest2 rest3 : List ReadAnswer)
    (oks1 oks2 oks3 : List Ack),
    isShift i = true → decode w = some i →
    s1.readyToIssue w → s2.readyToIssue w → s3.readyToIssue w →
    s1.len.toNat = bs.length → s2.len.toNat = bs.length → s3.len.toNat = bs.length →
    s3.shamt.toNat = s1.shamt.toNat + s2.shamt.toNat →
    s1.input.answers = bytesThen bs rest1 → s1.output.answers = oksThen bs.length oks1 →
    stepN (2 * bs.length + 1) s1 = .next t1 → t1.output.written = s1.output.written ++ ys →
    s2.input.answers = bytesThen ys rest2 → s2.output.answers = oksThen bs.length oks2 →
    stepN (2 * bs.length + 1) s2 = .next t2 →
    s3.input.answers = bytesThen bs rest3 → s3.output.answers = oksThen bs.length oks3 →
    stepN (2 * bs.length + 1) s3 = .next t3 →
    ∃ zs, t2.output.written = s2.output.written ++ zs ∧ t3.output.written = s3.output.written ++ zs

/-- Rules R170, R172: a running shift whose ports always answer finishes within 2 LEN block steps, whatever they answer. -/
def Obligations.ShiftTerminates : Prop :=
  ∀ (i : Instr) (s : State), s.Inv → s.status.busy = true → decode s.cmd = some i → isShift i = true →
    s.agenda = [] → s.len.toNat ≤ s.input.answers.length → s.len.toNat ≤ s.output.answers.length →
    ∃ n t, n ≤ 2 * s.len.toNat ∧ stepN n s = .next t ∧ t.status.busy = false ∧ t.status.done = true
      ∧ t.phase = .idle
end

