-- ==== Sys2Proof/Laws/Decode.lean ====
section
/-! SUPPORT. The fields of a command word and the word of the fields are inverse to each other (rule R63); the codes of the
policies (rule R66). -/

namespace Sys2Proof

/-- The fields of the word made of them are the same fields. -/
theorem fieldsOfWord_wordOfFields (f : Fields) : fieldsOfWord (wordOfFields f) = f := by
  cases f
  simp only [fieldsOfWord, wordOfFields, Fields.mk.injEq]
  refine ⟨?_, ?_, ?_, ?_, ?_, ?_⟩ <;>
  · apply BitVec.eq_of_getLsbD_eq
    intro i hi
    simp only [BitVec.getLsbD_extractLsb', BitVec.getLsbD_append, hi, decide_true, Bool.true_and]
    repeat' split
    all_goals first | omega | (congr 1; omega)

/-- The word made of a word's fields is the same word. -/
theorem wordOfFields_fieldsOfWord (w : Word) : wordOfFields (fieldsOfWord w) = w := by
  simp only [fieldsOfWord, wordOfFields]
  apply BitVec.eq_of_getLsbD_eq
  intro i hi
  simp only [BitVec.getLsbD_extractLsb', BitVec.getLsbD_append]
  repeat' split
  all_goals
    have hb : ∀ j n : Nat, j < n → decide (j < n) = true := fun j n h => decide_eq_true h
    rw [hb _ _ (by omega), Bool.true_and]
    congr 1
    omega

theorem policyOfCode_policyCode (pol : Policy) : policyOfCode (policyCode pol) = some pol := by
  cases pol <;> rfl

/-- A defined POL code is the code of its policy. -/
theorem policyCode_of_policyOfCode {p : BitVec 3} {pol : Policy} (h : policyOfCode p = some pol) :
    policyCode pol = p := by
  revert p pol
  decide +revert

end Sys2Proof
end

