-- ==== Sys2Proof/Laws/State.lean ====
section
/-! SUPPORT. One lemma per field for each named update of the state, so that no later proof unfolds a record update. -/

namespace Sys2Proof.Machine

/-! ### `State.finish` -/

@[simp] theorem State.finish_cmd (tag : ResultTag) (c : Option Word) (s : State) : (s.finish tag c).cmd = s.cmd := rfl

@[simp] theorem State.finish_errcode (tag : ResultTag) (c : Option Word) (s : State) : (s.finish tag c).errcode = c.getD 0 := rfl

@[simp] theorem State.finish_shamtLo (tag : ResultTag) (c : Option Word) (s : State) : (s.finish tag c).shamtLo = s.shamtLo := rfl

@[simp] theorem State.finish_shamtHi (tag : ResultTag) (c : Option Word) (s : State) : (s.finish tag c).shamtHi = s.shamtHi := rfl

@[simp] theorem State.finish_lenLo (tag : ResultTag) (c : Option Word) (s : State) : (s.finish tag c).lenLo = s.lenLo := rfl

@[simp] theorem State.finish_lenHi (tag : ResultTag) (c : Option Word) (s : State) : (s.finish tag c).lenHi = s.lenHi := rfl

@[simp] theorem State.finish_phase (tag : ResultTag) (c : Option Word) (s : State) : (s.finish tag c).phase = .idle := rfl

@[simp] theorem State.finish_cnt (tag : ResultTag) (c : Option Word) (s : State) : (s.finish tag c).cnt = s.cnt := rfl

@[simp] theorem State.finish_hold (tag : ResultTag) (c : Option Word) (s : State) : (s.finish tag c).hold = s.hold := rfl

@[simp] theorem State.finish_carry (tag : ResultTag) (c : Option Word) (s : State) : (s.finish tag c).carry = s.carry := rfl

@[simp] theorem State.finish_oppos (tag : ResultTag) (c : Option Word) (s : State) : (s.finish tag c).oppos = s.oppos := rfl

@[simp] theorem State.finish_opeof (tag : ResultTag) (c : Option Word) (s : State) : (s.finish tag c).opeof = s.opeof := rfl

@[simp] theorem State.finish_input (tag : ResultTag) (c : Option Word) (s : State) : (s.finish tag c).input = s.input := rfl

@[simp] theorem State.finish_operand (tag : ResultTag) (c : Option Word) (s : State) : (s.finish tag c).operand = s.operand := rfl

@[simp] theorem State.finish_output (tag : ResultTag) (c : Option Word) (s : State) : (s.finish tag c).output = s.output := rfl

@[simp] theorem State.finish_portsAliased (tag : ResultTag) (c : Option Word) (s : State) : (s.finish tag c).portsAliased = s.portsAliased := rfl

@[simp] theorem State.finish_agenda (tag : ResultTag) (c : Option Word) (s : State) : (s.finish tag c).agenda = s.agenda := rfl

@[simp] theorem State.finish_rdata (tag : ResultTag) (c : Option Word) (s : State) : (s.finish tag c).rdata = s.rdata := rfl

@[simp] theorem State.finish_busy (tag : ResultTag) (c : Option Word) (s : State) : (s.finish tag c).status.busy = false := rfl

@[simp] theorem State.finish_done (tag : ResultTag) (c : Option Word) (s : State) : (s.finish tag c).status.done = true := rfl

@[simp] theorem State.finish_illcmd (tag : ResultTag) (c : Option Word) (s : State) : (s.finish tag c).status.illcmd = s.status.illcmd := rfl

@[simp] theorem State.finish_wbusy (tag : ResultTag) (c : Option Word) (s : State) : (s.finish tag c).status.wbusy = s.status.wbusy := rfl

@[simp] theorem State.finish_short (tag : ResultTag) (c : Option Word) (s : State) : (s.finish tag c).status.short = s.status.short := rfl

@[simp] theorem State.finish_result (tag : ResultTag) (c : Option Word) (s : State) : (s.finish tag c).status.result = tag := rfl

@[simp] theorem State.finish_hascode (tag : ResultTag) (c : Option Word) (s : State) : (s.finish tag c).status.hascode = c.isSome := rfl

@[simp] theorem State.finish_shamt (tag : ResultTag) (c : Option Word) (s : State) : (s.finish tag c).shamt = s.shamt := rfl

@[simp] theorem State.finish_len (tag : ResultTag) (c : Option Word) (s : State) : (s.finish tag c).len = s.len := rfl

@[simp] theorem State.finish_bo (tag : ResultTag) (c : Option Word) (s : State) : (s.finish tag c).bo = s.bo := rfl

@[simp] theorem State.finish_bits (tag : ResultTag) (c : Option Word) (s : State) : (s.finish tag c).bits = s.bits := rfl

/-! ### `State.shortInput` -/

@[simp] theorem State.shortInput_cmd (s : State) : (s.shortInput).cmd = s.cmd := rfl

@[simp] theorem State.shortInput_errcode (s : State) : (s.shortInput).errcode = 0 := rfl

@[simp] theorem State.shortInput_shamtLo (s : State) : (s.shortInput).shamtLo = s.shamtLo := rfl

@[simp] theorem State.shortInput_shamtHi (s : State) : (s.shortInput).shamtHi = s.shamtHi := rfl

@[simp] theorem State.shortInput_lenLo (s : State) : (s.shortInput).lenLo = s.lenLo := rfl

@[simp] theorem State.shortInput_lenHi (s : State) : (s.shortInput).lenHi = s.lenHi := rfl

@[simp] theorem State.shortInput_phase (s : State) : (s.shortInput).phase = .idle := rfl

@[simp] theorem State.shortInput_cnt (s : State) : (s.shortInput).cnt = s.cnt := rfl

@[simp] theorem State.shortInput_hold (s : State) : (s.shortInput).hold = s.hold := rfl

@[simp] theorem State.shortInput_carry (s : State) : (s.shortInput).carry = s.carry := rfl

@[simp] theorem State.shortInput_oppos (s : State) : (s.shortInput).oppos = s.oppos := rfl

@[simp] theorem State.shortInput_opeof (s : State) : (s.shortInput).opeof = s.opeof := rfl

@[simp] theorem State.shortInput_input (s : State) : (s.shortInput).input = s.input := rfl

@[simp] theorem State.shortInput_operand (s : State) : (s.shortInput).operand = s.operand := rfl

@[simp] theorem State.shortInput_output (s : State) : (s.shortInput).output = s.output := rfl

@[simp] theorem State.shortInput_portsAliased (s : State) : (s.shortInput).portsAliased = s.portsAliased := rfl

@[simp] theorem State.shortInput_agenda (s : State) : (s.shortInput).agenda = s.agenda := rfl

@[simp] theorem State.shortInput_rdata (s : State) : (s.shortInput).rdata = s.rdata := rfl

@[simp] theorem State.shortInput_busy (s : State) : (s.shortInput).status.busy = false := rfl

@[simp] theorem State.shortInput_done (s : State) : (s.shortInput).status.done = true := rfl

@[simp] theorem State.shortInput_illcmd (s : State) : (s.shortInput).status.illcmd = s.status.illcmd := rfl

@[simp] theorem State.shortInput_wbusy (s : State) : (s.shortInput).status.wbusy = s.status.wbusy := rfl

@[simp] theorem State.shortInput_short (s : State) : (s.shortInput).status.short = true := rfl

@[simp] theorem State.shortInput_result (s : State) : (s.shortInput).status.result = .inputRead := rfl

@[simp] theorem State.shortInput_hascode (s : State) : (s.shortInput).status.hascode = false := rfl

@[simp] theorem State.shortInput_shamt (s : State) : (s.shortInput).shamt = s.shamt := rfl

@[simp] theorem State.shortInput_len (s : State) : (s.shortInput).len = s.len := rfl

@[simp] theorem State.shortInput_bo (s : State) : (s.shortInput).bo = s.bo := rfl

@[simp] theorem State.shortInput_bits (s : State) : (s.shortInput).bits = s.bits := rfl

/-! ### `State.accepted` -/

@[simp] theorem State.accepted_cmd (w : Word) (s : State) : (s.accepted w).cmd = w := rfl

@[simp] theorem State.accepted_errcode (w : Word) (s : State) : (s.accepted w).errcode = 0 := rfl

@[simp] theorem State.accepted_shamtLo (w : Word) (s : State) : (s.accepted w).shamtLo = s.shamtLo := rfl

@[simp] theorem State.accepted_shamtHi (w : Word) (s : State) : (s.accepted w).shamtHi = s.shamtHi := rfl

@[simp] theorem State.accepted_lenLo (w : Word) (s : State) : (s.accepted w).lenLo = s.lenLo := rfl

@[simp] theorem State.accepted_lenHi (w : Word) (s : State) : (s.accepted w).lenHi = s.lenHi := rfl

@[simp] theorem State.accepted_phase (w : Word) (s : State) : (s.accepted w).phase = s.phase := rfl

@[simp] theorem State.accepted_cnt (w : Word) (s : State) : (s.accepted w).cnt = 0 := rfl

@[simp] theorem State.accepted_hold (w : Word) (s : State) : (s.accepted w).hold = 0 := rfl

@[simp] theorem State.accepted_carry (w : Word) (s : State) : (s.accepted w).carry = 0 := rfl

@[simp] theorem State.accepted_oppos (w : Word) (s : State) : (s.accepted w).oppos = 0 := rfl

@[simp] theorem State.accepted_opeof (w : Word) (s : State) : (s.accepted w).opeof = false := rfl

@[simp] theorem State.accepted_input (w : Word) (s : State) : (s.accepted w).input = s.input := rfl

@[simp] theorem State.accepted_operand (w : Word) (s : State) : (s.accepted w).operand = { s.operand with start := s.operand.pos } := rfl

@[simp] theorem State.accepted_output (w : Word) (s : State) : (s.accepted w).output = s.output := rfl

@[simp] theorem State.accepted_portsAliased (w : Word) (s : State) : (s.accepted w).portsAliased = s.portsAliased := rfl

@[simp] theorem State.accepted_agenda (w : Word) (s : State) : (s.accepted w).agenda = s.agenda := rfl

@[simp] theorem State.accepted_rdata (w : Word) (s : State) : (s.accepted w).rdata = s.rdata := rfl

@[simp] theorem State.accepted_busy (w : Word) (s : State) : (s.accepted w).status.busy = true := rfl

@[simp] theorem State.accepted_done (w : Word) (s : State) : (s.accepted w).status.done = false := rfl

@[simp] theorem State.accepted_illcmd (w : Word) (s : State) : (s.accepted w).status.illcmd = s.status.illcmd := rfl

@[simp] theorem State.accepted_wbusy (w : Word) (s : State) : (s.accepted w).status.wbusy = s.status.wbusy := rfl

@[simp] theorem State.accepted_short (w : Word) (s : State) : (s.accepted w).status.short = false := rfl

@[simp] theorem State.accepted_result (w : Word) (s : State) : (s.accepted w).status.result = .none := rfl

@[simp] theorem State.accepted_hascode (w : Word) (s : State) : (s.accepted w).status.hascode = false := rfl

@[simp] theorem State.accepted_shamt (w : Word) (s : State) : (s.accepted w).shamt = s.shamt := rfl

@[simp] theorem State.accepted_len (w : Word) (s : State) : (s.accepted w).len = s.len := rfl

@[simp] theorem State.accepted_bo (w : Word) (s : State) : (s.accepted w).bo = s.bo := rfl

@[simp] theorem State.accepted_bits (w : Word) (s : State) : (s.accepted w).bits = s.bits := rfl

/-! ### `State.resetBlock` -/

@[simp] theorem State.resetBlock_cmd (s : State) : (s.resetBlock).cmd = 0 := rfl

@[simp] theorem State.resetBlock_status (s : State) : (s.resetBlock).status = Status.reset := rfl

@[simp] theorem State.resetBlock_errcode (s : State) : (s.resetBlock).errcode = 0 := rfl

@[simp] theorem State.resetBlock_shamtLo (s : State) : (s.resetBlock).shamtLo = 0 := rfl

@[simp] theorem State.resetBlock_shamtHi (s : State) : (s.resetBlock).shamtHi = 0 := rfl

@[simp] theorem State.resetBlock_lenLo (s : State) : (s.resetBlock).lenLo = 0 := rfl

@[simp] theorem State.resetBlock_lenHi (s : State) : (s.resetBlock).lenHi = 0 := rfl

@[simp] theorem State.resetBlock_phase (s : State) : (s.resetBlock).phase = .idle := rfl

@[simp] theorem State.resetBlock_cnt (s : State) : (s.resetBlock).cnt = 0 := rfl

@[simp] theorem State.resetBlock_hold (s : State) : (s.resetBlock).hold = 0 := rfl

@[simp] theorem State.resetBlock_carry (s : State) : (s.resetBlock).carry = 0 := rfl

@[simp] theorem State.resetBlock_oppos (s : State) : (s.resetBlock).oppos = 0 := rfl

@[simp] theorem State.resetBlock_opeof (s : State) : (s.resetBlock).opeof = false := rfl

@[simp] theorem State.resetBlock_input (s : State) : (s.resetBlock).input = s.input := rfl

@[simp] theorem State.resetBlock_operand (s : State) : (s.resetBlock).operand = s.operand := rfl

@[simp] theorem State.resetBlock_output (s : State) : (s.resetBlock).output = s.output := rfl

@[simp] theorem State.resetBlock_portsAliased (s : State) : (s.resetBlock).portsAliased = s.portsAliased := rfl

@[simp] theorem State.resetBlock_agenda (s : State) : (s.resetBlock).agenda = s.agenda := rfl

@[simp] theorem State.resetBlock_rdata (s : State) : (s.resetBlock).rdata = s.rdata := rfl

/-! ### `State.writeWhileBusy` -/

@[simp] theorem State.writeWhileBusy_cmd (s : State) : (s.writeWhileBusy).cmd = s.cmd := rfl

@[simp] theorem State.writeWhileBusy_errcode (s : State) : (s.writeWhileBusy).errcode = s.errcode := rfl

@[simp] theorem State.writeWhileBusy_shamtLo (s : State) : (s.writeWhileBusy).shamtLo = s.shamtLo := rfl

@[simp] theorem State.writeWhileBusy_shamtHi (s : State) : (s.writeWhileBusy).shamtHi = s.shamtHi := rfl

@[simp] theorem State.writeWhileBusy_lenLo (s : State) : (s.writeWhileBusy).lenLo = s.lenLo := rfl

@[simp] theorem State.writeWhileBusy_lenHi (s : State) : (s.writeWhileBusy).lenHi = s.lenHi := rfl

@[simp] theorem State.writeWhileBusy_phase (s : State) : (s.writeWhileBusy).phase = s.phase := rfl

@[simp] theorem State.writeWhileBusy_cnt (s : State) : (s.writeWhileBusy).cnt = s.cnt := rfl

@[simp] theorem State.writeWhileBusy_hold (s : State) : (s.writeWhileBusy).hold = s.hold := rfl

@[simp] theorem State.writeWhileBusy_carry (s : State) : (s.writeWhileBusy).carry = s.carry := rfl

@[simp] theorem State.writeWhileBusy_oppos (s : State) : (s.writeWhileBusy).oppos = s.oppos := rfl

@[simp] theorem State.writeWhileBusy_opeof (s : State) : (s.writeWhileBusy).opeof = s.opeof := rfl

@[simp] theorem State.writeWhileBusy_input (s : State) : (s.writeWhileBusy).input = s.input := rfl

@[simp] theorem State.writeWhileBusy_operand (s : State) : (s.writeWhileBusy).operand = s.operand := rfl

@[simp] theorem State.writeWhileBusy_output (s : State) : (s.writeWhileBusy).output = s.output := rfl

@[simp] theorem State.writeWhileBusy_portsAliased (s : State) : (s.writeWhileBusy).portsAliased = s.portsAliased := rfl

@[simp] theorem State.writeWhileBusy_agenda (s : State) : (s.writeWhileBusy).agenda = s.agenda := rfl

@[simp] theorem State.writeWhileBusy_rdata (s : State) : (s.writeWhileBusy).rdata = s.rdata := rfl

@[simp] theorem State.writeWhileBusy_busy (s : State) : (s.writeWhileBusy).status.busy = s.status.busy := rfl

@[simp] theorem State.writeWhileBusy_done (s : State) : (s.writeWhileBusy).status.done = s.status.done := rfl

@[simp] theorem State.writeWhileBusy_illcmd (s : State) : (s.writeWhileBusy).status.illcmd = s.status.illcmd := rfl

@[simp] theorem State.writeWhileBusy_wbusy (s : State) : (s.writeWhileBusy).status.wbusy = true := rfl

@[simp] theorem State.writeWhileBusy_short (s : State) : (s.writeWhileBusy).status.short = s.status.short := rfl

@[simp] theorem State.writeWhileBusy_result (s : State) : (s.writeWhileBusy).status.result = s.status.result := rfl

@[simp] theorem State.writeWhileBusy_hascode (s : State) : (s.writeWhileBusy).status.hascode = s.status.hascode := rfl

@[simp] theorem State.writeWhileBusy_shamt (s : State) : (s.writeWhileBusy).shamt = s.shamt := rfl

@[simp] theorem State.writeWhileBusy_len (s : State) : (s.writeWhileBusy).len = s.len := rfl

@[simp] theorem State.writeWhileBusy_bo (s : State) : (s.writeWhileBusy).bo = s.bo := rfl

@[simp] theorem State.writeWhileBusy_bits (s : State) : (s.writeWhileBusy).bits = s.bits := rfl

/-! ### `State.illegalCommand` -/

@[simp] theorem State.illegalCommand_cmd (s : State) : (s.illegalCommand).cmd = s.cmd := rfl

@[simp] theorem State.illegalCommand_errcode (s : State) : (s.illegalCommand).errcode = s.errcode := rfl

@[simp] theorem State.illegalCommand_shamtLo (s : State) : (s.illegalCommand).shamtLo = s.shamtLo := rfl

@[simp] theorem State.illegalCommand_shamtHi (s : State) : (s.illegalCommand).shamtHi = s.shamtHi := rfl

@[simp] theorem State.illegalCommand_lenLo (s : State) : (s.illegalCommand).lenLo = s.lenLo := rfl

@[simp] theorem State.illegalCommand_lenHi (s : State) : (s.illegalCommand).lenHi = s.lenHi := rfl

@[simp] theorem State.illegalCommand_phase (s : State) : (s.illegalCommand).phase = s.phase := rfl

@[simp] theorem State.illegalCommand_cnt (s : State) : (s.illegalCommand).cnt = s.cnt := rfl

@[simp] theorem State.illegalCommand_hold (s : State) : (s.illegalCommand).hold = s.hold := rfl

@[simp] theorem State.illegalCommand_carry (s : State) : (s.illegalCommand).carry = s.carry := rfl

@[simp] theorem State.illegalCommand_oppos (s : State) : (s.illegalCommand).oppos = s.oppos := rfl

@[simp] theorem State.illegalCommand_opeof (s : State) : (s.illegalCommand).opeof = s.opeof := rfl

@[simp] theorem State.illegalCommand_input (s : State) : (s.illegalCommand).input = s.input := rfl

@[simp] theorem State.illegalCommand_operand (s : State) : (s.illegalCommand).operand = s.operand := rfl

@[simp] theorem State.illegalCommand_output (s : State) : (s.illegalCommand).output = s.output := rfl

@[simp] theorem State.illegalCommand_portsAliased (s : State) : (s.illegalCommand).portsAliased = s.portsAliased := rfl

@[simp] theorem State.illegalCommand_agenda (s : State) : (s.illegalCommand).agenda = s.agenda := rfl

@[simp] theorem State.illegalCommand_rdata (s : State) : (s.illegalCommand).rdata = s.rdata := rfl

@[simp] theorem State.illegalCommand_busy (s : State) : (s.illegalCommand).status.busy = s.status.busy := rfl

@[simp] theorem State.illegalCommand_done (s : State) : (s.illegalCommand).status.done = s.status.done := rfl

@[simp] theorem State.illegalCommand_illcmd (s : State) : (s.illegalCommand).status.illcmd = true := rfl

@[simp] theorem State.illegalCommand_wbusy (s : State) : (s.illegalCommand).status.wbusy = s.status.wbusy := rfl

@[simp] theorem State.illegalCommand_short (s : State) : (s.illegalCommand).status.short = s.status.short := rfl

@[simp] theorem State.illegalCommand_result (s : State) : (s.illegalCommand).status.result = s.status.result := rfl

@[simp] theorem State.illegalCommand_hascode (s : State) : (s.illegalCommand).status.hascode = s.status.hascode := rfl

@[simp] theorem State.illegalCommand_shamt (s : State) : (s.illegalCommand).shamt = s.shamt := rfl

@[simp] theorem State.illegalCommand_len (s : State) : (s.illegalCommand).len = s.len := rfl

@[simp] theorem State.illegalCommand_bo (s : State) : (s.illegalCommand).bo = s.bo := rfl

@[simp] theorem State.illegalCommand_bits (s : State) : (s.illegalCommand).bits = s.bits := rfl

/-! ### `State.observable` -/

@[simp] theorem State.observable_cmd (s : State) : (s.observable).cmd = s.cmd := rfl

@[simp] theorem State.observable_status (s : State) : (s.observable).status = s.status := rfl

@[simp] theorem State.observable_errcode (s : State) : (s.observable).errcode = s.errcode := rfl

@[simp] theorem State.observable_shamtLo (s : State) : (s.observable).shamtLo = s.shamtLo := rfl

@[simp] theorem State.observable_shamtHi (s : State) : (s.observable).shamtHi = s.shamtHi := rfl

@[simp] theorem State.observable_lenLo (s : State) : (s.observable).lenLo = s.lenLo := rfl

@[simp] theorem State.observable_lenHi (s : State) : (s.observable).lenHi = s.lenHi := rfl

@[simp] theorem State.observable_phase (s : State) : (s.observable).phase = s.phase := rfl

@[simp] theorem State.observable_cnt (s : State) : (s.observable).cnt = 0 := rfl

@[simp] theorem State.observable_hold (s : State) : (s.observable).hold = 0 := rfl

@[simp] theorem State.observable_carry (s : State) : (s.observable).carry = 0 := rfl

@[simp] theorem State.observable_oppos (s : State) : (s.observable).oppos = 0 := rfl

@[simp] theorem State.observable_opeof (s : State) : (s.observable).opeof = false := rfl

@[simp] theorem State.observable_input (s : State) : (s.observable).input = s.input := rfl

@[simp] theorem State.observable_operand (s : State) : (s.observable).operand = s.operand := rfl

@[simp] theorem State.observable_output (s : State) : (s.observable).output = s.output := rfl

@[simp] theorem State.observable_portsAliased (s : State) : (s.observable).portsAliased = s.portsAliased := rfl

@[simp] theorem State.observable_agenda (s : State) : (s.observable).agenda = s.agenda := rfl

@[simp] theorem State.observable_rdata (s : State) : (s.observable).rdata = s.rdata := rfl

@[simp] theorem State.observable_shamt (s : State) : (s.observable).shamt = s.shamt := rfl

@[simp] theorem State.observable_len (s : State) : (s.observable).len = s.len := rfl

@[simp] theorem State.observable_bo (s : State) : (s.observable).bo = s.bo := rfl

@[simp] theorem State.observable_bits (s : State) : (s.observable).bits = s.bits := rfl

end Sys2Proof.Machine
end

