-- ==== Sys2Proof/Laws/Ops.lean ====
section
/-! SUPPORT. What each shared operation can do, once: the port transactions, the step shapes built on them, the acceptance
of a command, the counters, and one step by the event it takes. -/

namespace Sys2Proof.Machine

/-! ### Port transactions -/

theorem State.inRead_of_nil {s : State} (h : s.input.answers = []) : s.inRead = none := by
  simp [State.inRead, h]

theorem State.inRead_of_cons {s : State} {a : ReadAnswer} {rest : List ReadAnswer} (h : s.input.answers = a :: rest) :
    s.inRead = some (a, { s with input := { answers := rest, pos := s.input.pos + a.advance } }) := by
  simp [State.inRead, h]

theorem State.opRead_of_nil {s : State} (h : s.operand.answers = []) : s.opRead = none := by
  simp [State.opRead, h]

theorem State.opRead_of_cons {s : State} {a : ReadAnswer} {rest : List ReadAnswer}
    (h : s.operand.answers = a :: rest) :
    s.opRead = some (a, { s with operand := { s.operand with answers := rest, pos := s.operand.pos + a.advance } }) := by
  simp [State.opRead, h]

theorem State.opRewind_of_nil {s : State} (h : s.operand.rewinds = []) : s.opRewind = none := by
  simp [State.opRewind, h]

theorem State.opRewind_of_ok {s : State} {rest : List Ack} (h : s.operand.rewinds = .ok :: rest) :
    s.opRewind = some (.ok, { s with operand := { s.operand with rewinds := rest, pos := s.operand.start } }) := by
  simp [State.opRewind, h]

theorem State.opRewind_of_err {s : State} {c : Option Word} {rest : List Ack}
    (h : s.operand.rewinds = .err c :: rest) :
    s.opRewind = some (.err c, { s with operand := { s.operand with rewinds := rest } }) := by
  simp [State.opRewind, h]

theorem State.outWrite_of_nil {s : State} (v : Byte) (h : s.output.answers = []) : s.outWrite v = none := by
  simp [State.outWrite, h]

theorem State.outWrite_of_ok {s : State} (v : Byte) {rest : List Ack} (h : s.output.answers = .ok :: rest) :
    s.outWrite v =
      some (.ok, { s with output := { answers := rest, written := s.output.written ++ [v] } }) := by
  simp [State.outWrite, h]

theorem State.outWrite_of_err {s : State} (v : Byte) {c : Option Word} {rest : List Ack}
    (h : s.output.answers = .err c :: rest) :
    s.outWrite v = some (.err c, { s with output := { s.output with answers := rest } }) := by
  simp [State.outWrite, h]

/-! ### Step shapes, one lemma per answer -/

section
variable {s : State} {onByte : Byte → State → State} {onEof onOk : State → State}

theorem State.afterInRead_nil (h : s.input.answers = []) : s.afterInRead onByte onEof = s := by
  simp [State.afterInRead, State.inRead_of_nil h]

theorem State.afterInRead_byte {v : Byte} {rest : List ReadAnswer} (h : s.input.answers = .byte v :: rest) :
    s.afterInRead onByte onEof = onByte v { s with input := { answers := rest, pos := s.input.pos + 1 } } := by
  simp [State.afterInRead, State.inRead_of_cons h, ReadAnswer.advance]

theorem State.afterInRead_eof {rest : List ReadAnswer} (h : s.input.answers = .eof :: rest) :
    s.afterInRead onByte onEof = onEof { s with input := { s.input with answers := rest } } := by
  simp [State.afterInRead, State.inRead_of_cons h, ReadAnswer.advance]

theorem State.afterInRead_err {c : Option Word} {rest : List ReadAnswer} (h : s.input.answers = .err c :: rest) :
    s.afterInRead onByte onEof = { s with input := { s.input with answers := rest } }.finish .inputRead c := by
  simp [State.afterInRead, State.inRead_of_cons h, ReadAnswer.advance]

theorem State.afterOpRead_nil (h : s.operand.answers = []) : s.afterOpRead onByte onEof = s := by
  simp [State.afterOpRead, State.opRead_of_nil h]

theorem State.afterOpRead_byte {v : Byte} {rest : List ReadAnswer} (h : s.operand.answers = .byte v :: rest) :
    s.afterOpRead onByte onEof =
      onByte v { s with operand := { s.operand with answers := rest, pos := s.operand.pos + 1 } } := by
  simp [State.afterOpRead, State.opRead_of_cons h, ReadAnswer.advance]

theorem State.afterOpRead_eof {rest : List ReadAnswer} (h : s.operand.answers = .eof :: rest) :
    s.afterOpRead onByte onEof = onEof { s with operand := { s.operand with answers := rest } } := by
  simp [State.afterOpRead, State.opRead_of_cons h, ReadAnswer.advance]

theorem State.afterOpRead_err {c : Option Word} {rest : List ReadAnswer} (h : s.operand.answers = .err c :: rest) :
    s.afterOpRead onByte onEof = { s with operand := { s.operand with answers := rest } }.finish .operandRead c := by
  simp [State.afterOpRead, State.opRead_of_cons h, ReadAnswer.advance]

theorem State.afterOpRewind_nil (h : s.operand.rewinds = []) : s.afterOpRewind onOk = s := by
  simp [State.afterOpRewind, State.opRewind_of_nil h]

theorem State.afterOpRewind_ok {rest : List Ack} (h : s.operand.rewinds = .ok :: rest) :
    s.afterOpRewind onOk =
      onOk { s with operand := { s.operand with rewinds := rest, pos := s.operand.start } } := by
  simp [State.afterOpRewind, State.opRewind_of_ok h]

theorem State.afterOpRewind_err {c : Option Word} {rest : List Ack} (h : s.operand.rewinds = .err c :: rest) :
    s.afterOpRewind onOk = { s with operand := { s.operand with rewinds := rest } }.finish .operandSeek c := by
  simp [State.afterOpRewind, State.opRewind_of_err h]

theorem State.afterOutWrite_nil {v : Byte} (h : s.output.answers = []) : s.afterOutWrite v onOk = s := by
  simp [State.afterOutWrite, State.outWrite_of_nil v h]

theorem State.afterOutWrite_ok {v : Byte} {rest : List Ack} (h : s.output.answers = .ok :: rest) :
    s.afterOutWrite v onOk = onOk { s with output := { answers := rest, written := s.output.written ++ [v] } } := by
  simp [State.afterOutWrite, State.outWrite_of_ok v h]

theorem State.afterOutWrite_err {v : Byte} {c : Option Word} {rest : List Ack}
    (h : s.output.answers = .err c :: rest) :
    s.afterOutWrite v onOk = { s with output := { s.output with answers := rest } }.finish .outputWrite c := by
  simp [State.afterOutWrite, State.outWrite_of_err v h]

/-! ### Step shapes, all answers at once -/

/-- All that a step reading the input can do. -/
theorem State.afterInRead_cases (s : State) (onByte : Byte → State → State) (onEof : State → State) :
    (s.input.answers = [] ∧ s.afterInRead onByte onEof = s)
    ∨ (∃ v rest, s.input.answers = .byte v :: rest ∧
        s.afterInRead onByte onEof = onByte v { s with input := { answers := rest, pos := s.input.pos + 1 } })
    ∨ (∃ rest, s.input.answers = .eof :: rest ∧
        s.afterInRead onByte onEof = onEof { s with input := { s.input with answers := rest } })
    ∨ ∃ c rest, s.input.answers = .err c :: rest ∧
        s.afterInRead onByte onEof = { s with input := { s.input with answers := rest } }.finish .inputRead c := by
  rcases h : s.input.answers with _ | ⟨v | _ | c, rest⟩
  · exact .inl ⟨rfl, State.afterInRead_nil h⟩
  · exact .inr (.inl ⟨v, rest, rfl, State.afterInRead_byte h⟩)
  · exact .inr (.inr (.inl ⟨rest, rfl, State.afterInRead_eof h⟩))
  · exact .inr (.inr (.inr ⟨c, rest, rfl, State.afterInRead_err h⟩))

/-- All that a step reading the operand can do. -/
theorem State.afterOpRead_cases (s : State) (onByte : Byte → State → State) (onEof : State → State) :
    (s.operand.answers = [] ∧ s.afterOpRead onByte onEof = s)
    ∨ (∃ v rest, s.operand.answers = .byte v :: rest ∧
        s.afterOpRead onByte onEof =
          onByte v { s with operand := { s.operand with answers := rest, pos := s.operand.pos + 1 } })
    ∨ (∃ rest, s.operand.answers = .eof :: rest ∧
        s.afterOpRead onByte onEof = onEof { s with operand := { s.operand with answers := rest } })
    ∨ ∃ c rest, s.operand.answers = .err c :: rest ∧
        s.afterOpRead onByte onEof = { s with operand := { s.operand with answers := rest } }.finish .operandRead c := by
  rcases h : s.operand.answers with _ | ⟨v | _ | c, rest⟩
  · exact .inl ⟨rfl, State.afterOpRead_nil h⟩
  · exact .inr (.inl ⟨v, rest, rfl, State.afterOpRead_byte h⟩)
  · exact .inr (.inr (.inl ⟨rest, rfl, State.afterOpRead_eof h⟩))
  · exact .inr (.inr (.inr ⟨c, rest, rfl, State.afterOpRead_err h⟩))

/-- All that a rewinding step can do. -/
theorem State.afterOpRewind_cases (s : State) (onOk : State → State) :
    (s.operand.rewinds = [] ∧ s.afterOpRewind onOk = s)
    ∨ (∃ rest, s.operand.rewinds = .ok :: rest ∧
        s.afterOpRewind onOk = onOk { s with operand := { s.operand with rewinds := rest, pos := s.operand.start } })
    ∨ ∃ c rest, s.operand.rewinds = .err c :: rest ∧
        s.afterOpRewind onOk = { s with operand := { s.operand with rewinds := rest } }.finish .operandSeek c := by
  rcases h : s.operand.rewinds with _ | ⟨_ | c, rest⟩
  · exact .inl ⟨rfl, State.afterOpRewind_nil h⟩
  · exact .inr (.inl ⟨rest, rfl, State.afterOpRewind_ok h⟩)
  · exact .inr (.inr ⟨c, rest, rfl, State.afterOpRewind_err h⟩)

/-- All that a writing step can do. -/
theorem State.afterOutWrite_cases (v : Byte) (s : State) (onOk : State → State) :
    (s.output.answers = [] ∧ s.afterOutWrite v onOk = s)
    ∨ (∃ rest, s.output.answers = .ok :: rest ∧
        s.afterOutWrite v onOk = onOk { s with output := { answers := rest, written := s.output.written ++ [v] } })
    ∨ ∃ c rest, s.output.answers = .err c :: rest ∧
        s.afterOutWrite v onOk = { s with output := { s.output with answers := rest } }.finish .outputWrite c := by
  rcases h : s.output.answers with _ | ⟨_ | c, rest⟩
  · exact .inl ⟨rfl, State.afterOutWrite_nil h⟩
  · exact .inr (.inl ⟨rest, rfl, State.afterOutWrite_ok h⟩)
  · exact .inr (.inr ⟨c, rest, rfl, State.afterOutWrite_err h⟩)

end

/-! ### Commands -/

theorem runCommand_busy {w : Word} {start : State → State} {block : State → Outcome} {s : State}
    (h : s.status.busy = true) : runCommand w start block s = block s := by
  simp [runCommand, h]

theorem runCommand_idle {w : Word} {start : State → State} {block : State → Outcome} {s : State}
    (h : s.status.busy = false) (ha : s.portsAliased = false) :
    runCommand w start block s = .next (start (s.accepted w)) := by
  simp [runCommand, h, ha]

theorem runCommand_aliased {w : Word} {start : State → State} {block : State → Outcome} {s : State}
    (h : s.status.busy = false) (ha : s.portsAliased = true) :
    runCommand w start block s = .refused .aliasedPorts := by
  simp [runCommand, h, ha]

/-- If a command's step answers a next state, it was the block step of a busy block or the acceptance on an idle one. -/
theorem runCommand_next {w : Word} {start : State → State} {block : State → Outcome} {s t : State}
    (h : runCommand w start block s = .next t) :
    (s.status.busy = true ∧ block s = .next t)
    ∨ (s.status.busy = false ∧ s.portsAliased = false ∧ t = start (s.accepted w)) := by
  unfold runCommand at h
  split at h
  · exact .inl ⟨‹_›, h⟩
  · split at h
    · cases h
    · injection h with h
      exact .inr ⟨by simpa using ‹¬ s.status.busy = true›, by simpa using ‹¬ s.portsAliased = true›, h.symm⟩

/-! ### Counters -/

theorem countDown_toNat (c : Size) : (countDown c).toNat = c.toNat - 1 := by
  unfold countDown
  split
  · simp [*]
  · bv_omega

theorem countUp_toNat (c : Size) : (countUp c).toNat = min (c.toNat + 1) (2 ^ 64 - 1) := by
  unfold countUp
  split
  · simp [*]
  · rename_i h
    have : c.toNat ≠ 2 ^ 64 - 1 := fun e => h (BitVec.eq_of_toNat_eq (by simpa using e))
    have := c.isLt
    rw [BitVec.toNat_add]
    simp
    omega

/-! ### Steps by event -/

theorem step_of_nil {s : State} (h : s.agenda = []) : step s = blockTurn s := by
  simp [step, h]

theorem step_of_cons {s : State} {e : Event} {rest : List Event} (h : s.agenda = e :: rest) :
    step s = runEvent e { s with agenda := rest } := by
  simp [step, h]

theorem blockTurn_of_idle {s : State} (h : s.status.busy = false) : blockTurn s = .next s := by
  simp [blockTurn, h]

theorem blockTurn_of_busy {s : State} {i : Instr} (h : s.status.busy = true) (hd : decode s.cmd = some i) :
    blockTurn s = exec i s := by
  simp [blockTurn, h, hd]

theorem accessRefusal_of_aligned {off : Nat} (h : off < 32) (ha : off % 4 = 0) : accessRefusal 4 off = none := by
  have : ¬ Config.windowBytes ≤ off := by simpa [Config.windowBytes] using h
  simp [accessRefusal, this, ha]

/-- A host access that is not refused is an aligned 32-bit access to the window. -/
theorem accessRefusal_none {width off : Nat} (h : accessRefusal width off = none) :
    width = 4 ∧ off % 4 = 0 ∧ off < 32 := by
  unfold accessRefusal at h
  split at h
  · cases h
  · split at h
    · cases h
    · rename_i hw hs
      have : ¬ 32 ≤ off := hw
      omega

/-- All that a write to a parameter register can do. -/
theorem State.writeParameter_cases (off : Nat) (v : Word) (s : State) :
    (s.status.busy = true ∧ s.writeParameter off v = s.writeWhileBusy)
    ∨ (s.status.busy = false ∧
      (s.writeParameter off v = { s with shamtLo := v } ∨ s.writeParameter off v = { s with shamtHi := v }
      ∨ s.writeParameter off v = { s with lenLo := v } ∨ s.writeParameter off v = { s with lenHi := v }
      ∨ s.writeParameter off v = s)) := by
  unfold State.writeParameter
  cases hb : s.status.busy
  · right
    refine ⟨rfl, ?_⟩
    simp only [Bool.false_eq_true, if_false]
    split <;> simp
  · exact .inl ⟨rfl, by simp⟩

/-- If accepting a word answers a next state, the block was busy, or the word illegal, or its command was run. -/
theorem acceptWord_next {w : Word} {s t : State} (h : acceptWord w s = .next t) :
    (s.status.busy = true ∧ t = s.writeWhileBusy)
    ∨ (s.status.busy = false ∧ decode w = none ∧ t = s.illegalCommand)
    ∨ (s.status.busy = false ∧ ∃ i, decode w = some i ∧ exec i s = .next t) := by
  unfold acceptWord at h
  split at h
  · injection h with h
    exact .inl ⟨‹_›, h.symm⟩
  · rename_i hb
    have hb : s.status.busy = false := by simpa using hb
    split at h
    · injection h with h
      exact .inr (.inl ⟨hb, ‹_›, h.symm⟩)
    · exact .inr (.inr ⟨hb, _, ‹_›, h⟩)

end Sys2Proof.Machine
end

