-- ==== Sys2Proof/Laws/PerInstr.lean ====
section
/-! SUPPORT. Facts about each instruction as syntax, one lemma per constructor. -/

/-- The word of a command passes every check of rule R72. -/
def Sys2Proof.Laws.EncodedIsLegal.Statement (i : Sys2Proof.Instr) : Prop :=
  (Sys2Proof.fieldsOfWord (Sys2Proof.encode i)).wellFormed = true

namespace Sys2Proof.Laws.EncodedIsLegal

theorem orb (imm : Byte) (ignPol : BitVec 3) : Statement (.orb imm ignPol) := by
  simp [Statement, encode, fieldsOfWord_wordOfFields]
  rfl

theorem andb (imm : Byte) (ignPol : BitVec 3) : Statement (.andb imm ignPol) := by
  simp [Statement, encode, fieldsOfWord_wordOfFields]
  rfl

theorem xorb (imm : Byte) (ignPol : BitVec 3) : Statement (.xorb imm ignPol) := by
  simp [Statement, encode, fieldsOfWord_wordOfFields]
  rfl

theorem not (ignImm : Byte) (ignPol : BitVec 3) : Statement (.not ignImm ignPol) := by
  simp [Statement, encode, fieldsOfWord_wordOfFields]
  rfl

theorem lsh (ignImm : Byte) (ignPol : BitVec 3) : Statement (.lsh ignImm ignPol) := by
  simp [Statement, encode, fieldsOfWord_wordOfFields]
  rfl

theorem rsh (ignImm : Byte) (ignPol : BitVec 3) : Statement (.rsh ignImm ignPol) := by
  simp [Statement, encode, fieldsOfWord_wordOfFields]
  rfl

theorem orf (pol : Policy) (ignImm : Byte) : Statement (.orf pol ignImm) := by
  cases pol <;> simp [Statement, encode, fieldsOfWord_wordOfFields] <;> rfl

theorem andf (pol : Policy) (ignImm : Byte) : Statement (.andf pol ignImm) := by
  cases pol <;> simp [Statement, encode, fieldsOfWord_wordOfFields] <;> rfl

theorem xorf (pol : Policy) (ignImm : Byte) : Statement (.xorf pol ignImm) := by
  cases pol <;> simp [Statement, encode, fieldsOfWord_wordOfFields] <;> rfl

end Sys2Proof.Laws.EncodedIsLegal
end

