-- ==== Sys2Proof/Tests/Slice0.lean ====
section
/-! SUPPORT. Tests: the well-formedness smoke, words written out from the encoding tables, single steps against the spec's
worked examples (spec/95_test_vectors.md, named in each comment), and for every obligation with hypotheses a state and
operands that meet them. -/

namespace Sys2Proof.Tests

open Sys2Proof Sys2Proof.Machine

/-! ### Well-formedness: each check refuses an ill-formed term -/

theorem test_wellFormed_refuses_reserved_high :
    Fields.wellFormed { legalFields 0 0 0 0 with rsv16 := 1 } = false := by decide

theorem test_wellFormed_refuses_reserved_bit7 :
    Fields.wellFormed { legalFields 0 0 0 0 with rsv7 := 1 } = false := by decide

theorem test_wellFormed_refuses_func :
    (legalFields 0 0 0 0b110).wellFormed = false ∧ (legalFields 0 0 0 0b111).wellFormed = false := by decide

theorem test_wellFormed_refuses_source :
    (legalFields 0 0 1 0b011).wellFormed = false ∧ (legalFields 0 0 1 0b100).wellFormed = false
    ∧ (legalFields 0 0 1 0b101).wellFormed = false := by decide

theorem test_wellFormed_refuses_policy :
    (legalFields 0 0b101 1 0).wellFormed = false ∧ (legalFields 0 0b111 1 0b010).wellFormed = false := by decide

theorem test_wellFormed_admits : (legalFields 0xFF 0b111 0 0b101).wellFormed = true
    ∧ (legalFields 0xFF 0b100 1 0b010).wellFormed = true := by decide

/-! ### Decoding, bit by bit from rule R63 (RSV16, IMM8, RSV7, POL, SRC, FUNC); the words of section 2.2 -/

theorem test_decode_orb : decode 0b00000000000000000000111100000000 = some (.orb 0x0F 0) := by decide

theorem test_decode_andb : decode 0b00000000000000001010010100000001 = some (.andb 0xA5 0) := by decide

theorem test_decode_xorb : decode 0b00000000000000000101101000000010 = some (.xorb 0x5A 0) := by decide

theorem test_decode_not : decode 0b00000000000000001111111100000011 = some (.not 0xFF 0) := by decide

theorem test_decode_lsh : decode 0b00000000000000000000000000000100 = some (.lsh 0 0) := by decide

theorem test_decode_rsh : decode 0b00000000000000000000000000000101 = some (.rsh 0 0) := by decide

theorem test_decode_orf : decode 0b00000000000000000000000000111000 = some (.orf .zeroFill 0) := by decide

theorem test_decode_andf : decode 0b00000000000000000000000000011001 = some (.andf .truncate 0) := by decide

theorem test_decode_xorf : decode 0b00000000000000001111111101001010 = some (.xorf .oneFill 0xFF) := by decide

theorem test_decode_ignored_policy : decode 0x00000070 = some (.orb 0 0b111) := by decide

theorem test_decode_illegal :
    [0x58, 0x7A, 0x0B, 0x0C, 0x0D, 0x06, 0x0F, 0x80, 0x10000, 0x80000004].all fun w => (decode w).isNone := by decide

theorem test_decodeTableWord : decodeTableWord 32 0x2A = some (.xorf .loop 0) := by decide

/-! ### Single steps -/

/-- A running command of word `w` in phase `p`, with the given answers waiting at its ports. -/
def running (w : Word) (p : Phase) (inp opd : List ReadAnswer) (rew out : List Ack) : State :=
  { State.reset with
    cmd := w
    status := { Status.reset with busy := true }
    phase := p
    input := { answers := inp, pos := 0 }
    operand := { answers := opd, rewinds := rew, pos := 0, start := 0 }
    output := { answers := out, written := [] } }

/-- A shift by `amount` of an input of `len` bytes, running in phase `p`. -/
def shifting (w : Word) (p : Phase) (amount len : Word) (n : Size) (inp : List ReadAnswer) (out : List Ack) : State :=
  { running w p inp [] [] out with shamtLo := amount, lenLo := len, cnt := n }

/-- A property of the next state, false of a fault or a refusal. -/
def next? (o : Outcome) (f : State → Bool) : Bool :=
  match o with
  | .next s => f s
  | .fault _ => false
  | .refused _ => false

/-- B1: 0xA0 | 0x0F = 0xAF. -/
theorem test_orb_byte : next? (exec (.orb 0x0F 0) (running 0x0F00 .bIn [.byte 0xA0] [] [] []))
    (fun s => s.hold == 0xAF && s.phase == .bOut && s.input.pos == 1) = true := by decide

/-- B13: an input error 5 ends with STATUS 0x902, ERRCODE 5. -/
theorem test_orb_error : next? (exec (.orb 0x0F 0) (running 0x0F00 .bIn [.err (some 5)] [] [] []))
    (fun s => s.status.word == 0x902 && s.errcode == 5) = true := by decide

/-- B5: 0xA5 & 0x0F = 0x05. -/
theorem test_andb_byte : next? (exec (.andb 0x0F 0) (running 0x0F01 .bIn [.byte 0xA5] [] [] []))
    (fun s => s.hold == 0x05) = true := by decide

/-- B8: 0xFF ^ 0x5A = 0xA5. -/
theorem test_xorb_byte : next? (exec (.xorb 0x5A 0) (running 0x5A02 .bIn [.byte 0xFF] [] [] []))
    (fun s => s.hold == 0xA5) = true := by decide

/-- B14: an output error 28 ends with STATUS 0xA02, ERRCODE 28, the byte not written. -/
theorem test_xorb_write_error : next? (exec (.xorb 0xFF 0) (running 0xFF02 .bOut [] [] [] [.err (some 28)]))
    (fun s => s.status.word == 0xA02 && s.errcode == 28 && s.output.written == []) = true := by decide

/-- B11: NOT of 0xF0 is 0x0F whatever IMM8 holds. -/
theorem test_not_byte : next? (exec (.not 0xFF 0) (running 0xFF03 .bIn [.byte 0xF0] [] [] []))
    (fun s => s.hold == 0x0F) = true := by decide

/-- L1.1 and W9: input EOF ends with STATUS 2; ILLCMD stays set across acceptance. -/
theorem test_not_eof : next? (exec (.not 0 0) (running 0x3 .bIn [.eof] [] [] []))
    (fun s => s.status.word == 2 && s.phase == .idle) = true := by decide

/-- F26: 0x01 | 0x10 = 0x11. -/
theorem test_orf_operand : next?
    (exec (.orf .zeroFill 0) { running 0x38 .fOp [] [.byte 0x10] [] [] with hold := 0x01 })
    (fun s => s.hold == 0x11 && s.oppos == 1 && s.phase == .fOut) = true := by decide

/-- F3: the operand ends first under Error: STATUS 0x402. -/
theorem test_orf_operand_eof : next? (exec (.orf .error 0) (running 0x8 .fOp [] [.eof] [] []))
    (fun s => s.status.word == 0x402 && s.errcode == 0) = true := by decide

/-- F27: 0xAB & 0xFF = 0xAB once the operand has ended under OneFill, with OPEOF set. -/
theorem test_andf_fill : next?
    (exec (.andf .oneFill 0) { running 0x49 .fOp [] [.eof] [] [] with hold := 0xAB })
    (fun s => s.hold == 0xAB && s.opeof && s.phase == .fOut) = true := by decide

/-- F31: an operand error 7 ends with STATUS 0xB02, ERRCODE 7. -/
theorem test_andf_operand_error : next? (exec (.andf .error 0) (running 0x9 .fOp [] [.err (some 7)] [] []))
    (fun s => s.status.word == 0xB02 && s.errcode == 7) = true := by decide

/-- F32: a rewind that answers 29 ends with STATUS 0xD02, ERRCODE 29. -/
theorem test_xorf_rewind_error : next? (exec (.xorf .loop 0) (running 0x2A .fRew [] [] [.err (some 29)] []))
    (fun s => s.status.word == 0xD02 && s.errcode == 29) = true := by decide

/-- F35: an operand that is empty after a rewind ends with STATUS 0x402. -/
theorem test_xorf_empty_after_rewind : next? (exec (.xorf .loop 0) (running 0x2A .fOp [] [.eof] [] []))
    (fun s => s.status.word == 0x402) = true := by decide

/-- S15: FSH(0x12, 0x34, 4) = 0x23. -/
theorem test_lsh_byte : next?
    (exec (.lsh 0 0) { shifting 0x4 .lsIn 4 2 1 [.byte 0x34] [] with carry := 0x12 })
    (fun s => s.hold == 0x23 && s.carry == 0x34 && s.cnt == 0 && s.phase == .lsOut) = true := by decide

/-- S5: the input ends before LEN bytes: STATUS 0x112. -/
theorem test_lsh_short : next? (exec (.lsh 0 0) (shifting 0x4 .lsIn 4 3 1 [.eof] []))
    (fun s => s.status.word == 0x112) = true := by decide

/-- S4: FSH(0x00, 0xB0, 4) = 0x0B. -/
theorem test_rsh_byte : next? (exec (.rsh 0 0) (shifting 0x5 .rsIn 4 2 2 [.byte 0xB0] []))
    (fun s => s.hold == 0x0B && s.carry == 0xB0 && s.cnt == 1) = true := by decide

/-- S2: LEN = 0 finishes in the CMD write with STATUS 2. -/
theorem test_rsh_empty : next? (step (State.reset.withFetchWord 32 0x5))
    (fun s => s.status.word == 2 && s.cmd == 5 && s.phase == .idle) = true := by decide

/-- The funnel shifter's table of section 2.1, row 0x12 0x34. -/
theorem test_funnel : ([0, 1, 2, 3, 4, 5, 6, 7, 8].map (funnel 0x12 0x34)) =
    [0x34, 0x1A, 0x8D, 0x46, 0x23, 0x91, 0x48, 0x24, 0x12] := by decide

/-- L1.11: the whole-stream shifts of [0xB0, 0x0F] by 4. -/
theorem test_stream_shifts : leftShift [0xB0, 0x0F] 4 = [0x00, 0xF0] ∧ rightShift [0xB0, 0x0F] 4 = [0x0B, 0x00] := by
  decide

/-- A command issued after reset runs. -/
theorem test_fetch_word : next? (step (State.reset.withFetchWord 32 0x2A))
    (fun s => s.status.busy && s.phase == .fIn && s.cmd == 0x2A) = true := by decide

/-- W5: writing all ones to STATUS = 0x40E leaves 0x400. -/
theorem test_status_clear : next?
    (step { State.reset with
      status := { Status.reset with done := true, illcmd := true, wbusy := true, result := .operandEOF }
      agenda := [hostWr .status 0xFFFFFFFF] })
    (fun s => s.status.word == 0x400) = true := by decide

/-! ### Witnesses: for each obligation with hypotheses, a state and operands that meet them, clause by clause -/

theorem witness_EncodeRestoresWord : decode 0x00000F00 = some (.orb 0x0F 0) := by decide

theorem witness_IllegalWordsSetIllcmdOnly :
    let s : State := { State.reset with agenda := [.write 4 0x00 0x0B] }
    s.agenda = [.write 4 0x00 0x0B] ∧ s.status.busy = false ∧ decode 0x0B = none := by decide

theorem witness_StepRunsDecodedCommand :
    ( let s : State := { State.reset with agenda := [.write 4 0x00 0x3] }
      s.agenda = .write 4 0x00 0x3 :: [] ∧ s.status.busy = false ∧ decode 0x3 = some (.not 0 0))
    ∧ (let s : State := { running 0x3 .bIn [] [] [] [] with agenda := [.block] }
      s.agenda = .block :: [] ∧ s.status.busy = true ∧ decode s.cmd = some (.not 0 0))
    ∧ (let s := running 0x3 .bIn [] [] [] []
      s.agenda = [] ∧ s.status.busy = true ∧ decode s.cmd = some (.not 0 0))
    ∧ (let s : State := { State.reset with agenda := [.block] }
      s.agenda = .block :: [] ∧ s.status.busy = false)
    ∧ State.reset.agenda = [] ∧ State.reset.status.busy = false := by decide

theorem witness_IgnoredFieldsHaveNoEffect :
    clearIgnored (.not 0xFF 0) = clearIgnored (.not 0 7)
    ∧ (let s : State := { State.reset with agenda := [.write 4 0x00 0x3] }
      s.agenda = [.write 4 0x00 0x3] ∧ s.status.busy = false ∧ decode 0x3 = some (.not 0 0)
        ∧ next? (step s) (fun t => t.status.busy) = true) := by decide

/-- For ByteFormsAccepted, StreamFormsAccepted and IdleHiddenRegistersUnobservable. -/
theorem witness_ByteFormsAccepted : State.reset.status.busy = false ∧ State.reset.portsAliased = false := by decide

theorem witness_StreamFormsAccepted : State.reset.status.busy = false ∧ State.reset.portsAliased = false := by decide

theorem witness_LshAccepted :
    ( let s : State := { State.reset with lenLo := 2 }
      s.status.busy = false ∧ s.portsAliased = false ∧ s.len ≠ 0 ∧ s.bo = 0)
    ∧ (let s : State := { State.reset with lenHi := 1, shamtLo := 8 }
      s.status.busy = false ∧ s.portsAliased = false ∧ s.len ≠ 0 ∧ s.bo ≠ 0) := by decide

theorem witness_RshAccepted :
    ( let s : State := { State.reset with lenLo := 2 }
      s.status.busy = false ∧ s.portsAliased = false ∧ s.len ≠ 0 ∧ s.bo = 0)
    ∧ (let s : State := { State.reset with lenHi := 1, shamtHi := 1 }
      s.status.busy = false ∧ s.portsAliased = false ∧ s.len ≠ 0 ∧ s.bo ≠ 0) := by decide

theorem witness_ZeroLengthShiftFinishesAtOnce :
    let s : State := { State.reset with shamtLo := 5, agenda := [.write 4 0x00 0x4] }
    s.readyToIssue 0x4 ∧ decode 0x4 = some (.lsh 0 0) ∧ isShift (.lsh 0 0) = true ∧ s.len = 0 :=
  ⟨by unfold State.readyToIssue; decide, by decide⟩

theorem witness_AliasedLaunchRefused :
    let s : State := { State.reset with portsAliased := true }
    s.status.busy = false ∧ s.portsAliased = true := by decide

theorem witness_IdleHiddenRegistersUnobservable : State.reset.status.busy = false := by decide

theorem witness_ByteFormsTransformInput :
    let s := running 0x0F00 .bIn [.byte 0xA0, .eof] [] [] []
    s.status.busy = true ∧ s.phase = .bIn ∧ s.input.answers = .byte 0xA0 :: [.eof] := by decide

theorem witness_ByteFormsEndWithInput :
    byteFormFunction (.orb 0x0F 0) = some (fun a => a ||| 0x0F)
    ∧ (let s := running 0x0F00 .bIn [.eof] [] [] []
      s.status.busy = true ∧ s.phase = .bIn ∧ s.input.answers = .eof :: [])
    ∧ (let s := running 0x0F00 .bIn [.err none] [] [] []
      s.status.busy = true ∧ s.phase = .bIn ∧ s.input.answers = .err none :: []) := ⟨rfl, by decide⟩

theorem witness_ByteFormsWriteHold :
    byteFormFunction (.not 0 0) = some (fun a => ~~~a)
    ∧ (let s := running 0x3 .bOut [] [] [] [.ok]
      s.status.busy = true ∧ s.phase = .bOut ∧ s.output.answers = .ok :: [])
    ∧ (let s := running 0x3 .bOut [] [] [] [.err (some 28)]
      s.status.busy = true ∧ s.phase = .bOut ∧ s.output.answers = .err (some 28) :: []) := ⟨rfl, by decide⟩

theorem witness_UnusedInputsMakeNoDifference :
    byteFormFunction (.andb 1 0) = some (fun a => a &&& 1)
    ∧ (running 0x0101 .bIn [] [] [] []).status.busy = true
    ∧ isShift (.rsh 0 0) = true ∧ (running 0x5 .rsIn [] [] [] []).status.busy = true := ⟨rfl, by decide⟩

theorem witness_StreamFormsTakeInput :
    streamFormFunction (.orf .zeroFill 0) = some (fun a v => a ||| v, .zeroFill)
    ∧ streamFormFunction (.andf .oneFill 0) = some (fun a v => a &&& v, .oneFill)
    ∧ (let s := running 0x38 .fIn [.byte 1] [] [] []
      s.status.busy = true ∧ s.phase = .fIn ∧ s.input.answers = .byte 1 :: [] ∧ s.opeof = false)
    ∧ (let s : State := { running 0x38 .fIn [.byte 1] [] [] [] with opeof := true }
      s.status.busy = true ∧ s.phase = .fIn ∧ s.input.answers = .byte 1 :: [] ∧ s.opeof = true) :=
  ⟨rfl, rfl, by decide⟩

theorem witness_StreamFormsEndWithInput :
    streamFormFunction (.xorf .loop 0) = some (fun a v => a ^^^ v, .loop)
    ∧ (let s := running 0x2A .fIn [.eof] [] [] []
      s.status.busy = true ∧ s.phase = .fIn ∧ s.input.answers = .eof :: [])
    ∧ (let s := running 0x2A .fIn [.err none] [] [] []
      s.status.busy = true ∧ s.phase = .fIn ∧ s.input.answers = .err none :: []) := ⟨rfl, by decide⟩

theorem witness_StreamFormsCombineOperand :
    let s : State := { running 0x2A .fOp [] [.byte 7] [] [] with oppos := BitVec.allOnes 64 }
    s.status.busy = true ∧ s.phase = .fOp ∧ s.operand.answers = .byte 7 :: [] := by decide

theorem witness_StreamFormsResolveOperandEof :
    (∀ pol, streamFormFunction (.orf pol 0) = some (fun a v => a ||| v, pol))
    ∧ (let s := running 0x28 .fOp [] [.eof] [] []
      s.status.busy = true ∧ s.phase = .fOp ∧ s.operand.answers = .eof :: [] ∧ s.oppos = 0)
    ∧ (let s : State := { running 0x28 .fOp [] [.eof] [] [] with oppos := 1 }
      s.status.busy = true ∧ s.phase = .fOp ∧ s.operand.answers = .eof :: [] ∧ s.oppos ≠ 0) :=
  ⟨fun _ => rfl, by decide⟩

theorem witness_StreamFormsOperandFailure :
    streamFormFunction (.andf .error 0) = some (fun a v => a &&& v, .error)
    ∧ (let s := running 0x9 .fOp [] [.err (some 7)] [] []
      s.status.busy = true ∧ s.phase = .fOp ∧ s.operand.answers = .err (some 7) :: []) := ⟨rfl, by decide⟩

theorem witness_StreamFormsRewindOperand :
    streamFormFunction (.xorf .loop 0) = some (fun a v => a ^^^ v, .loop)
    ∧ (let s := running 0x2A .fRew [] [] [.ok] []
      s.status.busy = true ∧ s.phase = .fRew ∧ s.operand.rewinds = .ok :: [])
    ∧ (let s := running 0x2A .fRew [] [] [.err (some 29)] []
      s.status.busy = true ∧ s.phase = .fRew ∧ s.operand.rewinds = .err (some 29) :: []) := ⟨rfl, by decide⟩

theorem witness_StreamFormsWriteHold :
    streamFormFunction (.xorf .loop 0) = some (fun a v => a ^^^ v, .loop)
    ∧ (let s := running 0x2A .fOut [] [] [] [.ok]
      s.status.busy = true ∧ s.phase = .fOut ∧ s.output.answers = .ok :: [])
    ∧ (let s := running 0x2A .fOut [] [] [] [.err none]
      s.status.busy = true ∧ s.phase = .fOut ∧ s.output.answers = .err none :: []) := ⟨rfl, by decide⟩

theorem witness_FunnelSelectsBits :
    8 ≤ 8 ∧ 7 < 8
    ∧ (let s := shifting 0x4 .lsIn 4 2 1 [.byte 0x34] []
      s.status.busy = true ∧ s.input.answers = .byte 0x34 :: [] ∧ s.phase = .lsIn)
    ∧ (let s := shifting 0x5 .rsIn 4 2 1 [.byte 0x34] []
      s.status.busy = true ∧ s.input.answers = .byte 0x34 :: [] ∧ s.phase = .rsIn) := by decide

theorem witness_FunnelComputesSourceFormulas : 0 < 8 ∧ 7 < 8 := by decide

theorem witness_LshInputSteps :
    ( let s := shifting 0x4 .lsSkip 16 3 2 [.byte 1] []
      s.status.busy = true ∧ s.input.answers = .byte 1 :: [] ∧ s.phase = .lsSkip ∧ 1 < s.cnt.toNat)
    ∧ (let s := shifting 0x4 .lsSkip 16 2 1 [.byte 1] []
      s.status.busy = true ∧ s.input.answers = .byte 1 :: [] ∧ s.phase = .lsSkip ∧ s.cnt = 1
        ∧ s.len.toNat ≤ s.bo.toNat)
    ∧ (let s := shifting 0x4 .lsSkip 16 3 1 [.byte 1] []
      s.status.busy = true ∧ s.input.answers = .byte 1 :: [] ∧ s.phase = .lsSkip ∧ s.cnt = 1
        ∧ s.bo.toNat < s.len.toNat)
    ∧ (let s := shifting 0x4 .lsLoad 8 3 0 [.byte 1] []
      s.status.busy = true ∧ s.input.answers = .byte 1 :: [] ∧ s.phase = .lsLoad ∧ s.bo.toNat + 1 < s.len.toNat)
    ∧ (let s := shifting 0x4 .lsLoad 8 2 0 [.byte 1] []
      s.status.busy = true ∧ s.input.answers = .byte 1 :: [] ∧ s.phase = .lsLoad ∧ s.bo.toNat + 1 = s.len.toNat)
    ∧ (let s := shifting 0x4 .lsIn 4 2 1 [.byte 1] []
      s.status.busy = true ∧ s.input.answers = .byte 1 :: [] ∧ s.phase = .lsIn ∧ 0 < s.cnt.toNat) := by decide

theorem witness_LshOutputSteps :
    ( let s := shifting 0x4 .lsOut 4 3 1 [] [.ok]
      s.status.busy = true ∧ s.output.answers = .ok :: [] ∧ s.phase = .lsOut ∧ s.cnt ≠ 0)
    ∧ (let s := shifting 0x4 .lsOut 4 2 0 [] [.ok]
      s.status.busy = true ∧ s.output.answers = .ok :: [] ∧ s.phase = .lsOut ∧ s.cnt = 0)
    ∧ (let s := shifting 0x4 .lsTail 12 2 0 [] [.ok]
      s.status.busy = true ∧ s.output.answers = .ok :: [] ∧ s.phase = .lsTail ∧ s.bo ≠ 0)
    ∧ (let s := shifting 0x4 .lsTail 7 2 0 [] [.ok]
      s.status.busy = true ∧ s.output.answers = .ok :: [] ∧ s.phase = .lsTail ∧ s.bo = 0)
    ∧ (let s := shifting 0x4 .lsZero 16 3 2 [] [.ok]
      s.status.busy = true ∧ s.output.answers = .ok :: [] ∧ s.phase = .lsZero ∧ 1 < s.cnt.toNat)
    ∧ (let s := shifting 0x4 .lsZero 16 3 1 [] [.ok]
      s.status.busy = true ∧ s.output.answers = .ok :: [] ∧ s.phase = .lsZero ∧ s.cnt = 1) := by decide

theorem witness_RshInputSteps :
    ( let s := shifting 0x5 .rsIn 4 2 1 [.byte 1] []
      s.status.busy = true ∧ s.input.answers = .byte 1 :: [] ∧ s.phase = .rsIn ∧ 0 < s.cnt.toNat)
    ∧ (let s := shifting 0x5 .rsDrain 16 3 2 [.byte 1] []
      s.status.busy = true ∧ s.input.answers = .byte 1 :: [] ∧ s.phase = .rsDrain ∧ 1 < s.cnt.toNat)
    ∧ (let s := shifting 0x5 .rsDrain 16 3 1 [.byte 1] []
      s.status.busy = true ∧ s.input.answers = .byte 1 :: [] ∧ s.phase = .rsDrain ∧ s.cnt = 1) := by decide

theorem witness_RshOutputSteps :
    ( let s := shifting 0x5 .rsZero 16 3 2 [] [.ok]
      s.status.busy = true ∧ s.output.answers = .ok :: [] ∧ s.phase = .rsZero ∧ 1 < s.cnt.toNat)
    ∧ (let s := shifting 0x5 .rsZero 16 2 1 [] [.ok]
      s.status.busy = true ∧ s.output.answers = .ok :: [] ∧ s.phase = .rsZero ∧ s.cnt = 1
        ∧ s.len.toNat ≤ s.bo.toNat)
    ∧ (let s := shifting 0x5 .rsZero 16 3 1 [] [.ok]
      s.status.busy = true ∧ s.output.answers = .ok :: [] ∧ s.phase = .rsZero ∧ s.cnt = 1
        ∧ s.bo.toNat < s.len.toNat)
    ∧ (let s := shifting 0x5 .rsOut 4 3 1 [] [.ok]
      s.status.busy = true ∧ s.output.answers = .ok :: [] ∧ s.phase = .rsOut ∧ s.cnt ≠ 0)
    ∧ (let s := shifting 0x5 .rsOut 8 3 0 [] [.ok]
      s.status.busy = true ∧ s.output.answers = .ok :: [] ∧ s.phase = .rsOut ∧ s.cnt = 0 ∧ s.bo ≠ 0)
    ∧ (let s := shifting 0x5 .rsOut 7 3 0 [] [.ok]
      s.status.busy = true ∧ s.output.answers = .ok :: [] ∧ s.phase = .rsOut ∧ s.cnt = 0 ∧ s.bo = 0) := by decide

theorem witness_ShiftInputEndsShort :
    isShift (.lsh 0 0) = true ∧ isShift (.rsh 0 0) = true
    ∧ (let s := shifting 0x4 .lsSkip 16 3 1 [.eof] []
      s.status.busy = true ∧ phaseUsedBy s.phase (.lsh 0 0) = true
        ∧ s.phase ∈ [.lsSkip, .lsLoad, .lsIn, .rsIn, .rsDrain] ∧ s.input.answers = .eof :: [])
    ∧ (let s := shifting 0x5 .rsDrain 16 3 1 [.eof] []
      s.status.busy = true ∧ phaseUsedBy s.phase (.rsh 0 0) = true
        ∧ s.phase ∈ [.lsSkip, .lsLoad, .lsIn, .rsIn, .rsDrain] ∧ s.input.answers = .eof :: []) := by decide

theorem witness_ShiftInputFailure :
    isShift (.rsh 0 0) = true
    ∧ (let s := shifting 0x5 .rsIn 16 3 1 [.err (some 5)] []
      s.status.busy = true ∧ phaseUsedBy s.phase (.rsh 0 0) = true
        ∧ s.phase ∈ [.lsSkip, .lsLoad, .lsIn, .rsIn, .rsDrain] ∧ s.input.answers = .err (some 5) :: []) := by decide

theorem witness_ShiftOutputFailure :
    isShift (.lsh 0 0) = true
    ∧ (let s := shifting 0x4 .lsTail 4 2 0 [] [.err (some 28)]
      s.status.busy = true ∧ phaseUsedBy s.phase (.lsh 0 0) = true
        ∧ s.phase ∈ [.lsOut, .lsTail, .lsZero, .rsZero, .rsOut] ∧ s.output.answers = .err (some 28) :: []) := by
  decide

theorem witness_SilentPortHoldsCommand :
    let s := running 0x28 .fOp [] [] [] []
    s.status.busy = true ∧ phaseUsedBy s.phase (.orf .loop 0) = true ∧ s.portSilent :=
  ⟨by decide, by decide, rfl⟩

theorem witness_BlockStepIsOneTransaction :
    (running 0x3 .bIn [.byte 1] [] [] []).status.busy = true
    ∧ next? (exec (.not 0 0) (running 0x3 .bIn [.byte 1] [] [] [])) (fun _ => true) = true := by decide

theorem witness_BlockStepRecordsOnlyAtFinish :
    (running 0x3 .bIn [.eof] [] [] []).status.busy = true
    ∧ phaseUsedBy (running 0x3 .bIn [.eof] [] [] []).phase (.not 0 0) = true
    ∧ next? (exec (.not 0 0) (running 0x3 .bIn [.eof] [] [] [])) (fun t => t.status.done) = true := by decide

theorem witness_HostReadReturnsRegister :
    let s : State := { State.reset with agenda := [.read 4 0x1C] }
    s.agenda = .read 4 0x1C :: [] ∧ 0x1C ∈ [0x00, 0x04, 0x08, 0x0C, 0x10, 0x14, 0x18, 0x1C] := by decide

theorem witness_StatusFieldsAndClearing :
    let s : State := { State.reset with agenda := [.write 4 0x04 0xE] }
    s.agenda = .write 4 0x04 0xE :: [] := by decide

theorem witness_HostWriteByOffset :
    let s : State := { State.reset with agenda := [.write 4 0x18 5] }
    s.agenda = .write 4 0x18 5 :: [] := by decide

theorem witness_PseudoInstructionsLoadParameters :
    let s : State := { State.reset with agenda := hostLshift 12 3 ++ [.block] }
    s.status.busy = false ∧ s.agenda = hostLshift 12 3 ++ [.block]
    ∧ { s with agenda := hostSetAmount 12 }.agenda = hostSetAmount 12 ++ []
    ∧ { s with agenda := hostSetLength 3 }.agenda = hostSetLength 3 ++ [] := by decide

theorem witness_HostWaitPolls :
    let program : List HostLine := [.wr .cmd 0x5A02] ++ hostWait 1 0 ++ [.halt]
    let h : HostState := { line := 1, vars := [] }
    program.drop 1 = hostWait 1 0 ++ [.halt] ∧ h.line = 1 := by decide

/-- Rule R77: `bnz` goes on to the next line when the masked variable is 0; a variable without a value ends the program. -/
theorem test_host_branch :
    (hostLineStep [.bnz 0 0x2 7] { line := 0, vars := [(0, 0x5)] } State.reset).map (·.1.line) = some 1
    ∧ (hostLineStep [.bnz 0 0x2 7] { line := 0, vars := [] } State.reset).map (·.1.line) = none := by decide

theorem witness_OtherAccessesRefused :
    ( let s : State := { State.reset with agenda := [.read 4 0x20] }
      s.agenda = .read 4 0x20 :: [] ∧ 0x20 ≤ 0x20)
    ∧ (let s : State := { State.reset with agenda := [.write 2 0x1E 0] }
      s.agenda = .write 2 0x1E 0 :: [] ∧ 0x1E < 0x20 ∧ (2 ≠ 4 ∨ 0x1E % 4 ≠ 0))
    ∧ (31 < 32 ∧ Config.bwBase + 31 = Config.bwBase + 31)
    ∧ (Config.bwBase + 32 < Config.bwBase ∨ Config.bwBase + 32 ≤ Config.bwBase + 32) :=
  ⟨by decide, by decide, ⟨by decide, rfl⟩, .inr (Nat.le_refl _)⟩

theorem witness_ResetRestoresBlock :
    let s : State := { running 0x3 .bIn [] [] [] [] with agenda := [.reset] }
    s.agenda = .reset :: [] := by decide

/-- A left shift of two bytes by 4, waiting for its second byte, with every answer it needs. -/
def midShift : State := shifting 0x4 .lsIn 4 2 1 [.byte 0x0F, .eof] [.ok, .ok]

/-- The invariant holds of a state in the middle of a command. -/
theorem witness_midShift_inv : midShift.Inv := by
  have hd : decode midShift.cmd = some (.lsh 0 0) := by decide
  constructor
  · decide
  · decide
  · intro i hi _
    rw [hd] at hi
    injection hi with hi
    subst hi
    decide
  · decide
  · decide
  · decide
  · intro h
    exact absurd h (by decide)
  · intro i hi
    rfl
  · show 0 < midShift.cnt.toNat ∧ midShift.bo.toNat + midShift.cnt.toNat < midShift.len.toNat
    decide
  · decide
  · intro i f hi hf
    rw [hd] at hi
    injection hi with hi
    subst hi
    cases hf

theorem witness_StepKeepsInvariant : midShift.Inv ∧ next? (step midShift) (fun t => t.phase == .lsOut) = true :=
  ⟨witness_midShift_inv, by decide⟩

theorem witness_InvariantStatesNeverFault : midShift.Inv := witness_midShift_inv

theorem witness_ShiftTerminates :
    midShift.Inv ∧ midShift.status.busy = true ∧ decode midShift.cmd = some (.lsh 0 0) ∧ isShift (.lsh 0 0) = true
    ∧ midShift.agenda = [] ∧ midShift.len.toNat ≤ midShift.input.answers.length
    ∧ midShift.len.toNat ≤ midShift.output.answers.length :=
  ⟨witness_midShift_inv, by decide⟩

theorem witness_ParametersFrozenWhileBusy :
    let s : State := { midShift with agenda := [.write 4 0x0C 9] }
    s.status.busy = true ∧ s.agenda.head? ≠ some .reset ∧ next? (step s) (fun t => t.status.wbusy) = true := by decide

theorem witness_OnlyCmdWriteStartsCommand :
    let s : State := { State.reset with agenda := [.write 4 0x00 0x3] }
    s.status.busy = false ∧ s.agenda.head? ≠ some .reset ∧ next? (step s) (fun t => t.status.busy) = true := by decide

theorem witness_StickyBitsSetAndCleared :
    next? (step { State.reset with agenda := [.write 4 0x00 0x6] }) (fun t => t.status.illcmd) = true
    ∧ next? (step { midShift with agenda := [.write 4 0x14 0] }) (fun t => t.status.wbusy) = true := by decide

/-- A state ready to issue `w`, its ports connected to these answers. -/
def ready (w amount len : Word) (inp opd : List ReadAnswer) (rew out : List Ack) : State :=
  { State.reset with
    shamtLo := amount
    lenLo := len
    input := { answers := inp, pos := 0 }
    operand := { answers := opd, rewinds := rew, pos := 0, start := 0 }
    output := { answers := out, written := [] }
    agenda := [.write 4 0x00 w] }

theorem ready_readyToIssue (w amount len : Word) (inp opd : List ReadAnswer) (rew out : List Ack) :
    (ready w amount len inp opd rew out).readyToIssue w := ⟨rfl, rfl, rfl⟩

theorem witness_ByteFormTransformsStream :
    decode 0x0F00 = some (.orb 0x0F 0) ∧ byteFormFunction (.orb 0x0F 0) = some (fun a => a ||| 0x0F)
    ∧ (let s := ready 0x0F00 0 0 [.byte 0xA0, .byte 0x35, .eof] [] [] [.ok, .ok]
      s.readyToIssue 0x0F00 ∧ s.output.answers = oksThen 2 []
        ∧ s.input.answers = bytesThen [0xA0, 0x35] (.eof :: []))
    ∧ (let s := ready 0x0F00 0 0 [.byte 0xA0, .err none] [] [] [.ok]
      s.readyToIssue 0x0F00 ∧ s.output.answers = oksThen 1 []
        ∧ s.input.answers = bytesThen [0xA0] (.err none :: [])) :=
  ⟨by decide, rfl, ⟨ready_readyToIssue .., by decide⟩, ready_readyToIssue .., by decide⟩

theorem witness_StreamFormCombinesStreams :
    let s := ready 0x38 0 0 [.byte 1, .eof] [.byte 0x10, .eof] [] [.ok]
    s.readyToIssue 0x38 ∧ decode 0x38 = some (.orf .zeroFill 0)
    ∧ streamFormFunction (.orf .zeroFill 0) = some (fun a v => a ||| v, .zeroFill)
    ∧ s.input.answers = bytesThen [1] (.eof :: []) ∧ s.operand.answers = bytesThen [0x10] [.eof]
    ∧ s.output.answers = oksThen 1 [] := ⟨ready_readyToIssue .., by decide, rfl, by decide⟩

theorem witness_StreamFormStopsWithOperand :
    ( let s := ready 0x8 0 0 [.byte 1, .byte 2, .eof] [.byte 0x10, .eof] [] [.ok]
      s.readyToIssue 0x8 ∧ decode 0x8 = some (.orf .error 0)
      ∧ streamFormFunction (.orf .error 0) = some (fun a v => a ||| v, .error)
      ∧ s.input.answers = bytesThen [1] (.byte 2 :: [.eof]) ∧ s.operand.answers = bytesThen [0x10] (.eof :: [])
      ∧ s.output.answers = oksThen 1 [])
    ∧ decode 0x18 = some (.orf .truncate 0)
    ∧ streamFormFunction (.orf .truncate 0) = some (fun a v => a ||| v, .truncate)
    ∧ (ready 0x18 0 0 [.byte 1, .byte 2, .eof] [.byte 0x10, .eof] [] [.ok]).readyToIssue 0x18
    ∧ (let s := ready 0x28 0 0 [.byte 1, .eof] [.eof] [] []
      s.readyToIssue 0x28 ∧ decode 0x28 = some (.orf .loop 0)
      ∧ streamFormFunction (.orf .loop 0) = some (fun a v => a ||| v, .loop)
      ∧ s.input.answers = bytesThen [] (.byte 1 :: [.eof]) ∧ s.operand.answers = bytesThen [] (.eof :: [])
      ∧ s.output.answers = oksThen 0 []) :=
  ⟨⟨ready_readyToIssue .., by decide, rfl, by decide⟩, by decide, rfl, ready_readyToIssue ..,
    ready_readyToIssue .., by decide, rfl, by decide⟩

theorem witness_StreamFormFillsOperand :
    ( let s := ready 0x38 0 0 [.byte 1, .byte 2, .eof] [.byte 0x10, .eof] [] [.ok, .ok]
      s.readyToIssue 0x38 ∧ decode 0x38 = some (.orf .zeroFill 0)
      ∧ streamFormFunction (.orf .zeroFill 0) = some (fun a v => a ||| v, .zeroFill)
      ∧ [(0x10 : Byte)].length < [(1 : Byte), 2].length
      ∧ s.input.answers = bytesThen [1, 2] (.eof :: []) ∧ s.operand.answers = bytesThen [0x10] (.eof :: [])
      ∧ s.output.answers = oksThen 2 [])
    ∧ decode 0x49 = some (.andf .oneFill 0)
    ∧ streamFormFunction (.andf .oneFill 0) = some (fun a v => a &&& v, .oneFill)
    ∧ (ready 0x49 0 0 [.byte 1, .eof] [.eof] [] [.ok]).readyToIssue 0x49 :=
  ⟨⟨ready_readyToIssue .., by decide, rfl, by decide⟩, by decide, rfl, ready_readyToIssue ..⟩

theorem witness_StreamFormLoopsOperand :
    let s := ready 0x2A 0 0 [.byte 1, .byte 2, .eof] [.byte 0x80, .eof, .byte 0x80, .eof] [.ok, .ok] [.ok, .ok]
    s.readyToIssue 0x2A ∧ decode 0x2A = some (.xorf .loop 0)
    ∧ streamFormFunction (.xorf .loop 0) = some (fun a v => a ^^^ v, .loop)
    ∧ 0 < [(0x80 : Byte)].length ∧ [(1 : Byte), 2].length ≤ 2 * [(0x80 : Byte)].length
    ∧ s.input.answers = bytesThen [1, 2] (.eof :: []) ∧ s.operand.answers = passes 2 [0x80]
    ∧ s.operand.rewinds = List.replicate 2 .ok ∧ s.output.answers = oksThen 2 [] :=
  ⟨ready_readyToIssue .., by decide, rfl, by decide⟩

theorem witness_LshShiftsWholeStream :
    let s := ready 0x4 4 2 [.byte 0xB0, .byte 0x0F, .byte 0xAA] [] [] [.ok, .ok]
    s.readyToIssue 0x4 ∧ decode 0x4 = some (.lsh 0 0) ∧ s.len.toNat = [(0xB0 : Byte), 0x0F].length
    ∧ s.input.answers = bytesThen [0xB0, 0x0F] [.byte 0xAA] ∧ s.output.answers = oksThen 2 [] :=
  ⟨ready_readyToIssue .., by decide⟩

theorem witness_RshShiftsWholeStream :
    let s := ready 0x5 0xFFFFFFFF 2 [.byte 0xB0, .byte 0x0F, .byte 0xAA] [] [] [.ok, .ok]
    s.readyToIssue 0x5 ∧ decode 0x5 = some (.rsh 0 0) ∧ s.len.toNat = [(0xB0 : Byte), 0x0F].length
    ∧ s.input.answers = bytesThen [0xB0, 0x0F] [.byte 0xAA] ∧ s.output.answers = oksThen 2 [] :=
  ⟨ready_readyToIssue .., by decide⟩

theorem witness_ByteFormsUndoThemselves :
    (∃ k p, Instr.not 0 0 = .not k p) ∧ decode 0x3 = some (.not 0 0)
    ∧ (let s := ready 0x3 0 0 [.byte 0xF0, .eof] [] [] [.ok]
      let s' := ready 0x3 0 0 [.byte 0x0F, .eof] [] [] [.ok]
      s.readyToIssue 0x3 ∧ s'.readyToIssue 0x3
      ∧ s.input.answers = bytesThen [0xF0] (.eof :: []) ∧ s.output.answers = oksThen 1 []
      ∧ next? (stepN 4 s) (fun t => t.output.written == s.output.written ++ [0x0F]) = true
      ∧ s'.input.answers = bytesThen [0x0F] (.eof :: []) ∧ s'.output.answers = oksThen 1 []) :=
  ⟨⟨0, 0, rfl⟩, by decide, ready_readyToIssue .., ready_readyToIssue .., by decide⟩

theorem witness_ShiftsCompose :
    isShift (.lsh 0 0) = true ∧ decode 0x4 = some (.lsh 0 0)
    ∧ (let s1 := ready 0x4 3 1 [.byte 0x81] [] [] [.ok]
      let s2 := ready 0x4 5 1 [.byte 0x08] [] [] [.ok]
      let s3 := ready 0x4 8 1 [.byte 0x81] [] [] [.ok]
      s1.readyToIssue 0x4 ∧ s2.readyToIssue 0x4 ∧ s3.readyToIssue 0x4
      ∧ s1.len.toNat = 1 ∧ s2.len.toNat = 1 ∧ s3.len.toNat = 1
      ∧ s3.shamt.toNat = s1.shamt.toNat + s2.shamt.toNat
      ∧ s1.input.answers = bytesThen [0x81] [] ∧ s1.output.answers = oksThen 1 []
      ∧ next? (stepN 3 s1) (fun t => t.output.written == s1.output.written ++ [0x08]) = true
      ∧ s2.input.answers = bytesThen [0x08] [] ∧ s2.output.answers = oksThen 1 []
      ∧ next? (stepN 3 s2) (fun _ => true) = true
      ∧ s3.input.answers = bytesThen [0x81] [] ∧ s3.output.answers = oksThen 1 []
      ∧ next? (stepN 3 s3) (fun _ => true) = true) :=
  ⟨by decide, by decide, ready_readyToIssue .., ready_readyToIssue .., ready_readyToIssue .., by decide⟩

end Sys2Proof.Tests
end

/-! The value of a stream under appending, and the shifts of a whole stream as runs of the funnel shifter (rules R12,
R112 to R119). -/

namespace Sys2Proof.Machine

/-! ### Streams as numbers (rule R12) -/

theorem streamValue_lt (bs : List Byte) : streamValue bs < 256 ^ bs.length := by
  induction bs with
  | nil => simp [streamValue]
  | cons a rest ih =>
    have ha : a.toNat + 1 ≤ 256 := a.isLt
    calc streamValue (a :: rest) < (a.toNat + 1) * 256 ^ rest.length := by
          simp only [streamValue, Nat.add_mul, Nat.one_mul]
          omega
      _ ≤ 256 * 256 ^ rest.length := Nat.mul_le_mul_right _ ha
      _ = 256 ^ (a :: rest).length := by rw [List.length_cons, Nat.pow_succ']

theorem streamValue_append (xs ys : List Byte) :
    streamValue (xs ++ ys) = streamValue xs * 256 ^ ys.length + streamValue ys := by
  induction xs with
  | nil => simp [streamValue]
  | cons a rest ih =>
    rw [List.cons_append, streamValue, ih, streamValue, List.length_append, Nat.pow_add]
    ring

theorem streamValue_replicate_zero (n : Nat) : streamValue (List.replicate n 0) = 0 := by
  induction n with
  | zero => rfl
  | succ n ih => rw [List.replicate_succ, streamValue, ih, BitVec.ofNat_eq_ofNat, BitVec.toNat_zero, Nat.zero_mul]

/-- Cutting the last bytes `ys` off a stream. -/
theorem streamValue_append_div (xs ys : List Byte) :
    streamValue (xs ++ ys) / 256 ^ ys.length = streamValue xs := by
  rw [streamValue_append, Nat.mul_comm, Nat.mul_add_div (by positivity), Nat.div_eq_of_lt (streamValue_lt ys),
    Nat.add_zero]

theorem streamBytes_succ (n v : Nat) : streamBytes (n + 1) v = BitVec.ofNat 8 (v / 256 ^ n) :: streamBytes n v := by
  simp only [streamBytes, List.range_succ_eq_map, List.map_cons, List.map_map]
  congr 1
  refine List.map_congr_left fun i _ => ?_
  simp only [Function.comp_apply]
  congr 3
  omega

/-- Only the low `8 * n` bits of a number make a stream of `n` bytes. -/
theorem streamBytes_add_mul (n v k : Nat) : streamBytes n (k * 256 ^ n + v) = streamBytes n v := by
  induction n generalizing k with
  | zero => rfl
  | succ n ih =>
    have hsplit : k * 256 ^ (n + 1) + v = 256 ^ n * (k * 256) + v := by ring
    have hhead : BitVec.ofNat 8 (k * 256 + v / 256 ^ n) = BitVec.ofNat 8 (v / 256 ^ n) := by
      apply BitVec.eq_of_toNat_eq
      simp only [BitVec.toNat_ofNat]
      omega
    rw [streamBytes_succ, streamBytes_succ, hsplit, Nat.mul_add_div (by positivity), hhead, Nat.mul_comm, ih]

/-- A stream is the bytes of its value (rule R12). -/
theorem streamBytes_streamValue (bs : List Byte) : streamBytes bs.length (streamValue bs) = bs := by
  induction bs with
  | nil => rfl
  | cons a rest ih =>
    rw [List.length_cons, streamBytes_succ, streamValue, streamBytes_add_mul, ih, Nat.mul_comm,
      Nat.mul_add_div (by positivity), Nat.div_eq_of_lt (streamValue_lt rest), Nat.add_zero, BitVec.ofNat_toNat,
      BitVec.setWidth_eq]

theorem eq_streamBytes {bs : List Byte} {n v : Nat} (hn : bs.length = n) (hv : streamValue bs = v) :
    bs = streamBytes n v := by
  rw [← hn, ← hv, streamBytes_streamValue]

/-! ### The funnel shifter along a stream (rules R113 to R115) -/

/-- The bytes that the funnel shifter makes of `bs`, each with the byte before it, the first with `c`. -/
def funnels (r : Nat) (c : Byte) : List Byte → List Byte
  | [] => []
  | x :: rest => funnel c x r :: funnels r x rest

@[simp] theorem funnels_nil (r : Nat) (c : Byte) : funnels r c [] = [] := rfl

@[simp] theorem funnels_cons (r : Nat) (c x : Byte) (rest : List Byte) :
    funnels r c (x :: rest) = funnel c x r :: funnels r x rest := rfl

@[simp] theorem length_funnels (r : Nat) (c : Byte) (bs : List Byte) : (funnels r c bs).length = bs.length := by
  induction bs generalizing c with
  | nil => rfl
  | cons x rest ih => simp [ih]

theorem funnel_toNat (hi lo : Byte) (r : Nat) : (funnel hi lo r).toNat = (hi.toNat * 256 + lo.toNat) / 2 ^ r % 256 := by
  have happend : (hi ++ lo).toNat = hi.toNat * 256 + lo.toNat := by
    rw [BitVec.toNat_append, ← Nat.shiftLeft_add_eq_or_of_lt lo.isLt, Nat.shiftLeft_eq]
  simp [funnel, happend, Nat.shiftRight_eq_div_pow]

/-- The funnel shifter run along a stream is a right shift of the whole of it, `c` included. -/
theorem streamValue_funnels {r : Nat} (hr : r ≤ 8) (c : Byte) (bs : List Byte) :
    streamValue (funnels r c bs) = streamValue (c :: bs) / 2 ^ r % 256 ^ bs.length := by
  induction bs generalizing c with
  | nil => simp [streamValue, Nat.mod_one]
  | cons x rest ih =>
    have hpow : 256 = 2 ^ r * 2 ^ (8 - r) := by rw [← Nat.pow_add, Nat.add_sub_cancel' hr]
    have hlow : streamValue (c :: x :: rest) / 2 ^ r % 256 ^ rest.length
        = streamValue (x :: rest) / 2 ^ r % 256 ^ rest.length := by
      have hsplit : streamValue (c :: x :: rest)
          = 2 ^ r * (c.toNat * 2 ^ (8 - r) * 256 ^ rest.length) + streamValue (x :: rest) := by
        conv_lhs => rw [streamValue, List.length_cons, Nat.pow_succ']
        rw [show 256 * 256 ^ rest.length = 2 ^ r * 2 ^ (8 - r) * 256 ^ rest.length by rw [← hpow]]
        ring
      rw [hsplit, Nat.mul_add_div (by positivity), Nat.mul_add_mod_self_right]
    have hhigh : streamValue (c :: x :: rest) / 2 ^ r / 256 ^ rest.length
        = (c.toNat * 256 + x.toNat) / 2 ^ r := by
      have hpair : streamValue [c, x] = c.toNat * 256 + x.toNat := by simp [streamValue]
      rw [Nat.div_div_eq_div_mul, Nat.mul_comm, ← Nat.div_div_eq_div_mul, ← hpair]
      exact congrArg (· / 2 ^ r) (streamValue_append_div [c, x] rest)
    rw [funnels_cons, streamValue, length_funnels, ih, funnel_toNat, List.length_cons, Nat.pow_succ, Nat.mod_mul,
      hlow, hhigh]
    ring

/-! ### The parts of the amount (rule R112) -/

theorem State.bo_toNat (s : State) : s.bo.toNat = s.shamt.toNat / 8 := by
  simp [State.bo, Nat.shiftRight_eq_div_pow]

theorem State.bits_eq (s : State) : s.bits = s.shamt.toNat % 8 := by
  simp [State.bits]

theorem State.bits_lt (s : State) : s.bits < 8 := by
  rw [State.bits_eq]
  omega

/-- SHAMT is its whole bytes and its bits. -/
theorem State.shamt_eq (s : State) : s.shamt.toNat = 8 * s.bo.toNat + s.bits := by
  rw [State.bo_toNat, State.bits_eq]
  omega

/-! ### The shifts of a whole stream (rules R117 to R119) -/

theorem two_pow_eight_mul (n : Nat) : 2 ^ (8 * n) = 256 ^ n := by
  rw [Nat.pow_mul]

theorem leftShift_nil (n : Nat) : leftShift [] n = [] := rfl

theorem rightShift_nil (n : Nat) : rightShift [] n = [] := rfl

/-- Rule R119 for the left shift. -/
theorem leftShift_of_length_le {bs : List Byte} {n : Nat} (h : 8 * bs.length ≤ n) :
    leftShift bs n = List.replicate bs.length 0 := by
  refine (eq_streamBytes (by simp) ?_).symm
  rw [streamValue_replicate_zero]
  exact (Nat.mod_eq_zero_of_dvd (Dvd.dvd.mul_left (Nat.pow_dvd_pow 2 h) _)).symm

/-- Rule R119 for the right shift. -/
theorem rightShift_of_length_le {bs : List Byte} {n : Nat} (h : 8 * bs.length ≤ n) :
    rightShift bs n = List.replicate bs.length 0 := by
  refine (eq_streamBytes (by simp) ?_).symm
  have hlt : streamValue bs < 2 ^ n :=
    calc streamValue bs < 256 ^ bs.length := streamValue_lt bs
      _ = 2 ^ (8 * bs.length) := (two_pow_eight_mul _).symm
      _ ≤ 2 ^ n := Nat.pow_le_pow_right (by omega) h
  rw [streamValue_replicate_zero, Nat.div_eq_of_lt hlt]

/-- The left shift by the schedule of rule R125: skip `pre`, run the funnel shifter over the rest with a zero byte after
it, write a zero byte for each one skipped. -/
theorem leftShift_eq_funnels (pre xs : List Byte) (c : Byte) {b : Nat} (hb : b ≤ 8) :
    leftShift (pre ++ c :: xs) (8 * pre.length + b)
      = funnels (8 - b) c (xs ++ [0]) ++ List.replicate pre.length 0 := by
  refine (eq_streamBytes (by simp; omega) ?_).symm
  have hmul : streamValue (c :: xs) * 256 = 2 ^ (8 - b) * (streamValue (c :: xs) * 2 ^ b) := by
    rw [Nat.mul_left_comm, ← Nat.pow_add, Nat.sub_add_cancel hb]
  have hfunnels : streamValue (funnels (8 - b) c (xs ++ [0]))
      = streamValue (c :: xs) * 2 ^ b % 256 ^ (xs.length + 1) := by
    have happend : streamValue (c :: (xs ++ [0])) = streamValue (c :: xs) * 256 := by
      rw [← List.cons_append, streamValue_append]
      simp [streamValue]
    rw [streamValue_funnels (by omega), happend, List.length_append, List.length_singleton, hmul,
      Nat.mul_div_cancel_left _ (by positivity)]
  have hskip : streamValue (pre ++ c :: xs) * 2 ^ b % 256 ^ (xs.length + 1)
      = streamValue (c :: xs) * 2 ^ b % 256 ^ (xs.length + 1) := by
    rw [streamValue_append, List.length_cons, Nat.add_mul, Nat.mul_right_comm, Nat.mul_add_mod_self_right]
  rw [streamValue_append, streamValue_replicate_zero, List.length_replicate, hfunnels, ← hskip, Nat.add_zero,
    ← Nat.mul_mod_mul_right, two_pow_eight_mul, List.length_append, List.length_cons, Nat.add_comm pre.length,
    Nat.pow_add 256, Nat.pow_add, two_pow_eight_mul]
  ring_nf

/-- The right shift by the schedule of rule R127: a zero byte for each byte of `post`, then the funnel shifter over the
bytes before `post`. -/
theorem rightShift_eq_funnels (pre post : List Byte) {b : Nat} (hb : b ≤ 8) :
    rightShift (pre ++ post) (8 * post.length + b) = List.replicate post.length 0 ++ funnels b 0 pre := by
  refine (eq_streamBytes (by simp; omega) ?_).symm
  have hzero : streamValue ((0 : Byte) :: pre) = streamValue pre := by simp [streamValue]
  have hlt : streamValue pre / 2 ^ b < 256 ^ pre.length :=
    Nat.lt_of_le_of_lt (Nat.div_le_self ..) (streamValue_lt pre)
  rw [streamValue_append, streamValue_replicate_zero, streamValue_funnels hb, hzero, Nat.mod_eq_of_lt hlt,
    Nat.pow_add, two_pow_eight_mul, ← Nat.div_div_eq_div_mul, streamValue_append_div]
  simp

/-! ### Cutting a stream -/

theorem exists_append_cons_of_lt {bs : List Byte} {n : Nat} (h : n < bs.length) :
    ∃ pre x xs, bs = pre ++ x :: xs ∧ pre.length = n :=
  ⟨bs.take n, bs[n], bs.drop (n + 1), by rw [List.getElem_cons_drop, List.take_append_drop], by simp; omega⟩

theorem exists_cons_append_of_lt {bs : List Byte} {n : Nat} (h : n < bs.length) :
    ∃ x xs post, bs = x :: xs ++ post ∧ post.length = n := by
  cases bs with
  | nil => exact absurd h (Nat.not_lt_zero n)
  | cons x tail =>
    rw [List.length_cons] at h
    exact ⟨x, tail.take (tail.length - n), tail.drop (tail.length - n), by simp, by simp; omega⟩

end Sys2Proof.Machine

/-! Running a shift: the step that issues a command, the steps of a running one, and the states a shift passes through
(rules R52, R71, R125, R127). -/

namespace Sys2Proof.Machine

/-! ### Words and commands -/

/-- A word that decodes to a command is the command's word: CMD reads back as it was written (rule R74). -/
theorem encode_of_decode {w : Word} {i : Instr} (h : decode w = some i) : encode i = w := by
  suffices hf : fieldsOfInstr i = fieldsOfWord w by rw [encode, hf, wordOfFields_fieldsOfWord]
  generalize hw : fieldsOfWord w = f
  obtain ⟨rsv16, imm8, rsv7, pol, src, func⟩ := f
  simp only [decode, hw] at h
  split at h
  · cases h
  rename_i hrsv
  obtain ⟨rfl, rfl⟩ : rsv16 = 0 ∧ rsv7 = 0 := by simpa using hrsv
  split at h
  case h_10 => cases h
  case h_7 hs hf | h_8 hs hf | h_9 hs hf =>
    obtain ⟨p, hp, rfl⟩ := Option.map_eq_some_iff.mp h
    simp only [fieldsOfInstr, legalFields, policyCode_of_policyOfCode hp, Fields.mk.injEq, true_and]
    exact ⟨(BitVec.eq_of_toNat_eq hs).symm, (BitVec.eq_of_toNat_eq hf).symm⟩
  all_goals
    rename_i hs hf
    cases h
    simp only [fieldsOfInstr, legalFields, Fields.mk.injEq, true_and]
    exact ⟨(BitVec.eq_of_toNat_eq hs).symm, (BitVec.eq_of_toNat_eq hf).symm⟩

theorem exec_lsh (k : Byte) (p : BitVec 3) (s : State) :
    exec (.lsh k p) s = runCommand (encode (.lsh k p)) startLsh lshStep s := rfl

theorem exec_rsh (k : Byte) (p : BitVec 3) (s : State) :
    exec (.rsh k p) s = runCommand (encode (.rsh k p)) startRsh rshStep s := rfl

/-- The host's write of a legal word to CMD of an idle block runs the word's command (rules R48, R71). -/
theorem step_of_readyToIssue {s : State} {w : Word} {i : Instr} (h : s.readyToIssue w) (hd : decode w = some i) :
    step s = exec i { s with agenda := [] } := by
  obtain ⟨hagenda, hbusy, -⟩ := h
  rw [step_of_cons hagenda]
  simp only [runEvent, hostWrite, accessRefusal_of_aligned (off := 0) (by omega) (by omega), acceptWord, hbusy, hd,
    Bool.false_eq_true, if_false]

/-! ### Runs -/

/-- A step, and then a run. -/
theorem runsTo_of_step {n : Nat} {s s' t : State} (hs : step s = .next s') (hr : runsTo n s' t) :
    runsTo (n + 1) s t := by
  simpa only [runsTo, stepN, hs] using hr

theorem runsTo_zero {s t : State} (h : s.observable = t.observable) : runsTo 0 s t := ⟨s, rfl, h⟩

theorem runsTo_congr {n : Nat} {s t t' : State} (h : t.observable = t'.observable) : runsTo n s t ↔ runsTo n s t' := by
  simp only [runsTo, h]

/-! ### Counters, bytes and answers to come -/

theorem countDown_ofNat_succ {n : Nat} (h : n + 1 < 2 ^ 64) :
    countDown (BitVec.ofNat 64 (n + 1)) = BitVec.ofNat 64 n := by
  apply BitVec.eq_of_toNat_eq
  rw [countDown_toNat, BitVec.toNat_ofNat, BitVec.toNat_ofNat, Nat.mod_eq_of_lt h, Nat.mod_eq_of_lt (by omega)]
  omega

theorem ofNat_size_eq_zero {n : Nat} (h : n < 2 ^ 64) : BitVec.ofNat 64 n = 0 ↔ n = 0 := by
  rw [← BitVec.toNat_inj, BitVec.toNat_ofNat, Nat.mod_eq_of_lt h]
  rfl

theorem toNat_pos_of_ne_zero {x : Size} (h : x ≠ 0) : 0 < x.toNat :=
  Nat.pos_of_ne_zero (mt (fun h0 => BitVec.eq_of_toNat_eq h0) h)

/-- The count of LS_SKIP and RS_ZERO (rules R125, R127). -/
theorem ite_le_eq_ofNat_min (x y : Size) : (if x ≤ y then x else y) = BitVec.ofNat 64 (min x.toNat y.toNat) := by
  apply BitVec.eq_of_toNat_eq
  rw [BitVec.toNat_ofNat, Nat.mod_eq_of_lt (lt_of_le_of_lt (Nat.min_le_left ..) x.isLt)]
  split <;> rename_i hxy <;> rw [BitVec.le_def] at hxy <;> omega

theorem bytesThen_cons (x : Byte) (bs : List Byte) (rest : List ReadAnswer) :
    bytesThen (x :: bs) rest = .byte x :: bytesThen bs rest := rfl

theorem bytesThen_append (xs ys : List Byte) (rest : List ReadAnswer) :
    bytesThen (xs ++ ys) rest = bytesThen xs (bytesThen ys rest) := by
  simp [bytesThen]

theorem oksThen_succ (n : Nat) (rest : List Ack) : oksThen (n + 1) rest = .ok :: oksThen n rest := rfl

theorem oksThen_add (m n : Nat) (rest : List Ack) : oksThen (m + n) rest = oksThen m (oksThen n rest) := by
  rw [oksThen, List.replicate_add, List.append_assoc]
  rfl

/-! ### A running command -/

/-- The command `i` is running and the host is silent, so that the next step is a block step of `i`. -/
structure State.Running (s : State) (i : Instr) : Prop where
  agenda : s.agenda = []
  busy : s.status.busy = true
  decodes : decode s.cmd = some i

/-- `s` at another place of its command: all that a block step of a shift can change before the command ends. -/
def State.stage (s : State) (p : Phase) (n : Nat) (h c : Byte) (inp : InPort) (out : OutPort) : State :=
  { s with phase := p, cnt := BitVec.ofNat 64 n, hold := h, carry := c, input := inp, output := out }

/-- `s` after its command has ended with None (rule R145), the streams as given. -/
def State.finished (s : State) (inp : InPort) (out : OutPort) : State :=
  { s with input := inp, output := out }.finish .none none

section
variable {s : State} {i : Instr} {k : Byte} {q : BitVec 3} {p : Phase} {n : Nat} {h c : Byte} {inp : InPort}
  {out : OutPort}

@[simp] theorem State.stage_phase : (s.stage p n h c inp out).phase = p := rfl

@[simp] theorem State.stage_cnt : (s.stage p n h c inp out).cnt = BitVec.ofNat 64 n := rfl

@[simp] theorem State.stage_len : (s.stage p n h c inp out).len = s.len := rfl

@[simp] theorem State.stage_bo : (s.stage p n h c inp out).bo = s.bo := rfl

theorem State.Running.stage (hs : s.Running i) : (s.stage p n h c inp out).Running i :=
  ⟨hs.agenda, hs.busy, hs.decodes⟩

/-- A run that has reached the end of the command is over. -/
theorem runsTo_finish : runsTo 0 ((s.stage p n h c inp out).finish .none none) (s.finished inp out) :=
  runsTo_zero rfl

/-- An accepted command that has ended with None has run (rules R71, R145). -/
theorem State.finished_accepted (w : Word) :
    (({ s with agenda := [] }.accepted w).finished inp out).observable
      = (s.ran w .none none inp { s.operand with start := s.operand.pos } out).observable := rfl

theorem State.Running.step_eq (hs : s.Running i) : step s = exec i s := by
  rw [step_of_nil hs.agenda, blockTurn_of_busy hs.busy hs.decodes]

theorem State.Running.step_lsh (hs : s.Running (.lsh k q)) : step s = lshStep s := by
  rw [hs.step_eq, exec_lsh, runCommand_busy hs.busy]

theorem State.Running.step_rsh (hs : s.Running (.rsh k q)) : step s = rshStep s := by
  rw [hs.step_eq, exec_rsh, runCommand_busy hs.busy]

end

/-- A command that has just been accepted is running. -/
theorem State.running_accepted {s : State} {w : Word} {i : Instr} (hd : decode w = some i) :
    ({ s with agenda := [] }.accepted w).Running i :=
  ⟨rfl, rfl, hd⟩

/-- A whole command: the step that issues it, and the run from its start to its end. -/
theorem runsTo_of_issue {s : State} {w : Word} {i : Instr} {start : State → State} {block : State → Outcome}
    {ins : List ReadAnswer} {oks : List Ack} {n : Nat} {inp : InPort} {out : OutPort}
    (hready : s.readyToIssue w) (hd : decode w = some i) (hexec : ∀ t, exec i t = runCommand (encode i) start block t)
    (hin : s.input.answers = ins) (hout : s.output.answers = oks)
    (hrun : ∀ t : State, t = { s with agenda := [] }.accepted w →
      runsTo n (start (t.stage s.phase 0 0 0 ⟨ins, s.input.pos⟩ ⟨oks, s.output.written⟩)) (t.finished inp out)) :
    runsTo (n + 1) s (s.ran w .none none inp { s.operand with start := s.operand.pos } out) := by
  obtain ⟨-, hbusy, haliased⟩ := id hready
  have hissue : step s = .next (start ({ s with agenda := [] }.accepted w)) := by
    rw [step_of_readyToIssue hready hd, hexec, encode_of_decode hd]
    exact runCommand_idle hbusy haliased
  subst hin hout
  exact runsTo_of_step hissue ((runsTo_congr (State.finished_accepted w)).mp (hrun _ rfl))

/-! ### The ports of a stage -/

section
variable {s : State} {p : Phase} {n pos : Nat} {h c x v : Byte} {inp : InPort} {out : OutPort}
  {rest : List ReadAnswer} {oks : List Ack} {wr : List Byte} {onByte : Byte → State → State}
  {onEof onOk : State → State}

@[simp] theorem State.stage_afterInRead_byte :
    (s.stage p n h c ⟨.byte x :: rest, pos⟩ out).afterInRead onByte onEof
      = onByte x (s.stage p n h c ⟨rest, pos + 1⟩ out) :=
  State.afterInRead_byte rfl

@[simp] theorem State.stage_afterOutWrite_ok :
    (s.stage p n h c inp ⟨.ok :: oks, wr⟩).afterOutWrite v onOk
      = onOk (s.stage p n h c inp ⟨oks, wr ++ [v]⟩) :=
  State.afterOutWrite_ok rfl

end

/-! ### Counted phases (rules R125, R127): LS_SKIP and RS_DRAIN read, LS_ZERO and RS_ZERO write zero bytes -/

section
variable {s t : State} {p : Phase} {m n pos : Nat} {h c : Byte} {inp : InPort} {out : OutPort}
  {rest : List ReadAnswer} {oks : List Ack} {wr bs : List Byte} {leave : State → State}

/-- A phase that reads CNT bytes and then goes on as `leave` says. -/
theorem runsTo_of_readPhase (hbs : bs ≠ []) (hlen : bs.length < 2 ^ 64)
    (hstep : ∀ {n pos x rest}, n + 1 < 2 ^ 64 →
      step (s.stage p (n + 1) h c ⟨.byte x :: rest, pos⟩ out)
        = .next (if n = 0 then leave (s.stage p n h c ⟨rest, pos + 1⟩ out) else s.stage p n h c ⟨rest, pos + 1⟩ out))
    (hleave : runsTo m (leave (s.stage p 0 h c ⟨rest, pos + bs.length⟩ out)) t) :
    runsTo (bs.length + m) (s.stage p bs.length h c ⟨bytesThen bs rest, pos⟩ out) t := by
  induction bs generalizing pos with
  | nil => exact absurd rfl hbs
  | cons x xs ih =>
    rw [List.length_cons, Nat.add_right_comm, bytesThen_cons]
    refine runsTo_of_step (hstep hlen) ?_
    by_cases hxs : xs = []
    · subst hxs
      simpa [bytesThen] using hleave
    · rw [if_neg (by simpa using hxs)]
      refine ih hxs (Nat.lt_of_succ_lt hlen) ?_
      rwa [Nat.add_assoc, Nat.add_comm 1]

/-- A phase that writes CNT zero bytes and then goes on as `leave` says. -/
theorem runsTo_of_zeroPhase (hpos : 0 < n) (hn : n < 2 ^ 64)
    (hstep : ∀ {n oks wr}, n + 1 < 2 ^ 64 →
      step (s.stage p (n + 1) h c inp ⟨.ok :: oks, wr⟩)
        = .next (if n = 0 then leave (s.stage p n h c inp ⟨oks, wr ++ [0]⟩) else s.stage p n h c inp ⟨oks, wr ++ [0]⟩))
    (hleave : runsTo m (leave (s.stage p 0 h c inp ⟨oks, wr ++ List.replicate n 0⟩)) t) :
    runsTo (n + m) (s.stage p n h c inp ⟨oksThen n oks, wr⟩) t := by
  induction n generalizing wr with
  | zero => exact absurd hpos (Nat.lt_irrefl 0)
  | succ n ih =>
    rw [Nat.add_right_comm, oksThen_succ]
    refine runsTo_of_step (hstep hn) ?_
    by_cases h0 : n = 0
    · subst h0
      rw [if_pos rfl, Nat.zero_add]
      exact hleave
    · rw [if_neg h0]
      refine ih (Nat.pos_of_ne_zero h0) (Nat.lt_of_succ_lt hn) ?_
      rwa [List.append_assoc]

end

end Sys2Proof.Machine

/-! LSH on a whole stream (rules R125, R135). -/

namespace Sys2Proof.Machine

/-! ### LSH, phase by phase (rule R125) -/

section
variable {s : State} {k : Byte} {q : BitVec 3} {p : Phase} {n pos m : Nat} {h c x : Byte} {inp : InPort}
  {out : OutPort} {rest : List ReadAnswer} {oks : List Ack} {wr xs : List Byte} {t : State}

theorem step_lsZero (hs : s.Running (.lsh k q)) (hn : n + 1 < 2 ^ 64) :
    step (s.stage .lsZero (n + 1) h c inp ⟨.ok :: oks, wr⟩)
      = .next (if n = 0 then (s.stage .lsZero n h c inp ⟨oks, wr ++ [0]⟩).finish .none none
          else s.stage .lsZero n h c inp ⟨oks, wr ++ [0]⟩) := by
  rw [hs.stage.step_lsh]
  simp only [lshStep, State.stage_phase, State.stage_afterOutWrite_ok, State.stage_cnt,
    countDown_ofNat_succ hn, ofNat_size_eq_zero (Nat.lt_of_succ_lt hn)]
  rfl

theorem step_lsTail (hs : s.Running (.lsh k q)) :
    step (s.stage .lsTail n h c inp ⟨.ok :: oks, wr⟩)
      = .next (if s.bo = 0 then
            (s.stage .lsTail s.bo.toNat h c inp ⟨oks, wr ++ [funnel c 0 (8 - s.bits)]⟩).finish .none none
          else s.stage .lsZero s.bo.toNat h c inp ⟨oks, wr ++ [funnel c 0 (8 - s.bits)]⟩) := by
  rw [hs.stage.step_lsh]
  simp only [lshStep, State.stage, BitVec.ofNat_toNat, BitVec.setWidth_eq]
  rfl

theorem step_lsIn (hs : s.Running (.lsh k q)) (hn : n + 1 < 2 ^ 64) :
    step (s.stage .lsIn (n + 1) h c ⟨.byte x :: rest, pos⟩ out)
      = .next (s.stage .lsOut n (funnel c x (8 - s.bits)) x ⟨rest, pos + 1⟩ out) := by
  rw [hs.stage.step_lsh]
  simp only [lshStep, State.stage_phase, State.stage_afterInRead_byte, State.stage_cnt, countDown_ofNat_succ hn]
  rfl

theorem step_lsOut (hs : s.Running (.lsh k q)) :
    step (s.stage .lsOut n h c inp ⟨.ok :: oks, wr⟩) = .next (lshNext (s.stage .lsOut n h c inp ⟨oks, wr ++ [h]⟩)) := by
  rw [hs.stage.step_lsh]
  rfl

theorem step_lsLoad (hs : s.Running (.lsh k q)) (hn : s.bo.toNat + n + 1 = s.len.toNat) :
    step (s.stage .lsLoad m h c ⟨.byte x :: rest, pos⟩ out)
      = .next (lshNext (s.stage .lsLoad n h x ⟨rest, pos + 1⟩ out)) := by
  have hcnt : s.len - s.bo - 1 = BitVec.ofNat 64 n := by bv_omega
  rw [hs.stage.step_lsh]
  simp only [lshStep, State.stage_phase, State.stage_afterInRead_byte, State.stage_len, State.stage_bo, hcnt]
  rfl

theorem step_lsSkip (hs : s.Running (.lsh k q)) (hn : n + 1 < 2 ^ 64) :
    step (s.stage .lsSkip (n + 1) h c ⟨.byte x :: rest, pos⟩ out)
      = .next (if n = 0 then afterSkip (s.stage .lsSkip n h c ⟨rest, pos + 1⟩ out)
          else s.stage .lsSkip n h c ⟨rest, pos + 1⟩ out) := by
  rw [hs.stage.step_lsh]
  simp only [lshStep, State.stage_phase, State.stage_afterInRead_byte, State.stage_cnt,
    countDown_ofNat_succ hn, ofNat_size_eq_zero (Nat.lt_of_succ_lt hn)]
  rfl

end

/-! ### LSH as a whole (rules R125, R135) -/

section
variable {s t : State} {k : Byte} {q : BitVec 3} {p : Phase} {m n pos : Nat} {h c : Byte} {inp : InPort}
  {x : Byte} {out : OutPort} {rest : List ReadAnswer} {oks : List Ack} {wr xs pre bs : List Byte}

theorem lshNext_stage (hn : n < 2 ^ 64) :
    lshNext (s.stage p n h c inp out)
      = if n = 0 then s.stage .lsTail n h c inp out else s.stage .lsIn n h c inp out := by
  simp only [lshNext, State.stage_cnt, ofNat_size_eq_zero hn]
  rfl

theorem afterSkip_stage :
    afterSkip (s.stage p n h c inp out)
      = if s.len ≤ s.bo then s.stage .lsZero s.len.toNat h c inp out else s.stage .lsLoad n h c inp out := by
  simp only [State.stage, BitVec.ofNat_toNat, BitVec.setWidth_eq]
  rfl

theorem startLsh_stage (hlen : s.len ≠ 0) :
    startLsh (s.stage p 0 h c inp out)
      = if s.bo = 0 then afterSkip (s.stage p 0 h c inp out)
        else s.stage .lsSkip (min s.bo.toNat s.len.toNat) h c inp out := by
  rw [startLsh, State.stage_len, if_neg hlen, State.stage_bo, ite_le_eq_ofNat_min]
  rfl

theorem runsTo_lsZero (hs : s.Running (.lsh k q)) (hpos : 0 < n) (hn : n < 2 ^ 64) :
    runsTo n (s.stage .lsZero n h c inp ⟨oksThen n oks, wr⟩)
      (s.finished inp ⟨oks, wr ++ List.replicate n 0⟩) :=
  runsTo_of_zeroPhase (m := 0) hpos hn (step_lsZero hs) runsTo_finish

/-- From LS_TAIL on: the last byte that holds bits of the input, and the zero bytes. -/
theorem runsTo_lsTail (hs : s.Running (.lsh k q)) :
    runsTo (s.bo.toNat + 1) (s.stage .lsTail n h c inp ⟨oksThen (s.bo.toNat + 1) oks, wr⟩)
      (s.finished inp ⟨oks, wr ++ funnel c 0 (8 - s.bits) :: List.replicate s.bo.toNat 0⟩) := by
  rw [oksThen_succ, List.append_cons wr]
  refine runsTo_of_step (step_lsTail hs) ?_
  by_cases hbo : s.bo = 0
  · simpa [hbo, oksThen] using runsTo_finish
  · rw [if_neg hbo]
    exact runsTo_lsZero hs (toNat_pos_of_ne_zero hbo) s.bo.isLt

/-- From the end of LS_LOAD or LS_OUT on, with the bytes `xs` still to come and `c` the byte before them. -/
theorem runsTo_lshNext (hs : s.Running (.lsh k q)) (hlen : xs.length < 2 ^ 64) :
    runsTo (2 * xs.length + (s.bo.toNat + 1))
      (lshNext (s.stage p xs.length h c ⟨bytesThen xs rest, pos⟩ ⟨oksThen (xs.length + (s.bo.toNat + 1)) oks, wr⟩))
      (s.finished ⟨rest, pos + xs.length⟩
        ⟨oks, wr ++ (funnels (8 - s.bits) c (xs ++ [0]) ++ List.replicate s.bo.toNat 0)⟩) := by
  induction xs generalizing p pos h c wr with
  | nil =>
    simp only [List.length_nil, Nat.mul_zero, Nat.zero_add]
    exact runsTo_lsTail hs
  | cons x xs ih =>
    have hsteps : 2 * (xs.length + 1) + (s.bo.toNat + 1) = 2 * xs.length + (s.bo.toNat + 1) + 1 + 1 := by omega
    rw [lshNext_stage hlen, if_neg (by simp), List.length_cons, hsteps, Nat.add_right_comm xs.length 1, oksThen_succ,
      bytesThen_cons, List.cons_append, funnels_cons, List.cons_append, List.append_cons wr, Nat.add_comm xs.length 1,
      ← Nat.add_assoc pos, Nat.add_comm 1]
    exact runsTo_of_step (step_lsIn hs hlen) (runsTo_of_step (step_lsOut hs) (ih (Nat.lt_of_succ_lt hlen)))

/-- Rule R119 in the schedule of LSH: only zero bytes are written. -/
theorem runsTo_afterSkip_of_le (hs : s.Running (.lsh k q)) (hle : s.len ≤ s.bo) (hlen : s.len ≠ 0) :
    runsTo s.len.toNat (afterSkip (s.stage p n h c inp ⟨oksThen s.len.toNat oks, wr⟩))
      (s.finished inp ⟨oks, wr ++ List.replicate s.len.toNat 0⟩) := by
  rw [afterSkip_stage, if_pos hle]
  exact runsTo_lsZero hs (toNat_pos_of_ne_zero hlen) s.len.isLt

/-- After the skipped bytes, where the amount is less than the stream: `x` and `xs` are the bytes to come. -/
theorem runsTo_afterSkip_of_lt (hs : s.Running (.lsh k q)) (hlen : s.bo.toNat + xs.length + 1 = s.len.toNat) :
    runsTo (2 * xs.length + (s.bo.toNat + 1) + 1)
      (afterSkip (s.stage p n h c ⟨bytesThen (x :: xs) rest, pos⟩ ⟨oksThen (xs.length + (s.bo.toNat + 1)) oks, wr⟩))
      (s.finished ⟨rest, pos + 1 + xs.length⟩
        ⟨oks, wr ++ (funnels (8 - s.bits) x (xs ++ [0]) ++ List.replicate s.bo.toNat 0)⟩) := by
  have hlt : ¬ s.len ≤ s.bo := by
    rw [BitVec.le_def]
    omega
  have hxs : xs.length < 2 ^ 64 := by
    have := s.len.isLt
    omega
  rw [afterSkip_stage, if_neg hlt, bytesThen_cons]
  exact runsTo_of_step (step_lsLoad hs hlen) (runsTo_lshNext hs hxs)

/-- The start of LSH: the bytes `pre` that the amount shifts out of the stream are read and dropped. -/
theorem runsTo_startLsh (hs : s.Running (.lsh k q)) (hlen : s.len ≠ 0)
    (hpre : pre.length = min s.bo.toNat s.len.toNat)
    (hskip : ∀ p, runsTo m (afterSkip (s.stage p 0 h c ⟨rest, pos + pre.length⟩ out)) t) :
    runsTo (pre.length + m) (startLsh (s.stage p 0 h c ⟨bytesThen pre rest, pos⟩ out)) t := by
  rw [startLsh_stage hlen, ← hpre]
  by_cases hbo : s.bo = 0
  · obtain rfl : pre = [] := by simpa [hbo] using hpre
    rw [if_pos hbo, List.length_nil, Nat.zero_add]
    exact hskip p
  · have hpos := toNat_pos_of_ne_zero hbo
    have hpos' := toNat_pos_of_ne_zero hlen
    have hlt := s.len.isLt
    rw [if_neg hbo]
    exact runsTo_of_readPhase (List.length_pos_iff.mp (by omega)) (by omega) (step_lsSkip hs) (hskip _)

/-- LSH from its start to its end (rule R135). -/
theorem runsTo_lsh (hs : s.Running (.lsh k q)) (hlen : s.len.toNat = bs.length) :
    runsTo (2 * bs.length) (startLsh (s.stage p 0 h c ⟨bytesThen bs rest, pos⟩ ⟨oksThen bs.length oks, wr⟩))
      (s.finished ⟨rest, pos + bs.length⟩ ⟨oks, wr ++ leftShift bs s.shamt.toNat⟩) := by
  by_cases h0 : s.len = 0
  · obtain rfl : bs = [] := by simpa [h0] using hlen.symm
    rw [startLsh, State.stage_len, if_pos h0, leftShift_nil, List.append_nil]
    exact runsTo_finish
  by_cases hle : s.len ≤ s.bo
  · have hle' : s.len.toNat ≤ s.bo.toNat := hle
    have hshift : leftShift bs s.shamt.toNat = List.replicate bs.length 0 :=
      leftShift_of_length_le (by rw [s.shamt_eq]; omega)
    rw [Nat.two_mul, hshift]
    refine runsTo_startLsh hs h0 (by omega) fun p => ?_
    rw [← hlen]
    exact runsTo_afterSkip_of_le hs hle h0
  · have hlt : s.bo.toNat < bs.length := by
      rw [← hlen]
      exact Nat.lt_of_not_le hle
    obtain ⟨pre, x, xs, rfl, hpre⟩ := exists_append_cons_of_lt hlt
    have hbs : (pre ++ x :: xs).length = s.bo.toNat + xs.length + 1 := by simp [hpre, Nat.add_assoc]
    have hsteps : 2 * (pre ++ x :: xs).length = pre.length + (2 * xs.length + (s.bo.toNat + 1) + 1) := by omega
    have hoks : (pre ++ x :: xs).length = xs.length + (s.bo.toNat + 1) := by omega
    have hpos : pos + (pre ++ x :: xs).length = pos + pre.length + 1 + xs.length := by omega
    have hshift := leftShift_eq_funnels pre xs x s.bits_lt.le
    rw [hpre] at hshift
    rw [hsteps, hpos, hoks, bytesThen_append, s.shamt_eq, hshift]
    exact runsTo_startLsh hs h0 (by omega) fun p => runsTo_afterSkip_of_lt hs (by omega)

end

/-- Settles O56: the step that issues LSH, then LSH from its start to its end. -/
theorem lshShiftsWholeStream : Obligations.LshShiftsWholeStream := by
  intro w k q s bs rest oks hready hd hlen hin hout
  refine runsTo_of_issue hready hd (exec_lsh k q) hin hout fun t ht => ?_
  have hs : t.Running (.lsh k q) := ht ▸ State.running_accepted hd
  have hlen' : t.len.toNat = bs.length := ht ▸ hlen
  have hshamt : t.shamt = s.shamt := ht ▸ rfl
  exact hshamt ▸ runsTo_lsh hs hlen'

end Sys2Proof.Machine

/-! RSH on a whole stream (rules R127, R135). -/

namespace Sys2Proof.Machine

/-! ### RSH, phase by phase (rule R127) -/

/-- RS_OUT goes on to the next input byte, to the input bytes that are only read, or to the end. -/
def rshNext (t : State) : State :=
  if t.cnt ≠ 0 then { t with phase := .rsIn }
  else if t.bo ≠ 0 then { t with cnt := t.bo, phase := .rsDrain }
  else t.finish .none none

section
variable {s t : State} {k : Byte} {q : BitVec 3} {p : Phase} {m n pos : Nat} {h c x : Byte} {inp : InPort}
  {out : OutPort} {rest : List ReadAnswer} {oks : List Ack} {wr xs pre post bs : List Byte}

theorem rshNext_stage_zero :
    rshNext (s.stage p 0 h c inp out)
      = if s.bo ≠ 0 then s.stage .rsDrain s.bo.toNat h c inp out
        else (s.stage p 0 h c inp out).finish .none none := by
  simp only [State.stage, BitVec.ofNat_toNat, BitVec.setWidth_eq]
  rfl

theorem rshNext_stage_succ (hn : n + 1 < 2 ^ 64) :
    rshNext (s.stage p (n + 1) h c inp out) = s.stage .rsIn (n + 1) h c inp out :=
  if_pos (mt (ofNat_size_eq_zero hn).mp (Nat.succ_ne_zero n))

theorem afterLeadingZeros_stage_of_le (hle : s.len ≤ s.bo) :
    afterLeadingZeros (s.stage p n h c inp out) = s.stage .rsDrain s.len.toNat h c inp out := by
  rw [afterLeadingZeros, State.stage_len, State.stage_bo, if_pos hle]
  simp only [State.stage, BitVec.ofNat_toNat, BitVec.setWidth_eq]

theorem afterLeadingZeros_stage_of_lt (hlen : s.bo.toNat + m + 1 = s.len.toNat) :
    afterLeadingZeros (s.stage p n h c inp out) = s.stage .rsIn (m + 1) h 0 inp out := by
  have hlt : ¬ s.len ≤ s.bo := by
    rw [BitVec.le_def]
    omega
  have hcnt : s.len - s.bo = BitVec.ofNat 64 (m + 1) := by bv_omega
  rw [afterLeadingZeros, State.stage_len, State.stage_bo, if_neg hlt, hcnt]
  rfl

theorem startRsh_stage (hlen : s.len ≠ 0) :
    startRsh (s.stage p 0 h c inp out)
      = if s.bo = 0 then afterLeadingZeros (s.stage p 0 h c inp out)
        else s.stage .rsZero (min s.bo.toNat s.len.toNat) h c inp out := by
  rw [startRsh, State.stage_len, if_neg hlen, State.stage_bo, ite_le_eq_ofNat_min]
  rfl

theorem step_rsZero (hs : s.Running (.rsh k q)) (hn : n + 1 < 2 ^ 64) :
    step (s.stage .rsZero (n + 1) h c inp ⟨.ok :: oks, wr⟩)
      = .next (if n = 0 then afterLeadingZeros (s.stage .rsZero n h c inp ⟨oks, wr ++ [0]⟩)
          else s.stage .rsZero n h c inp ⟨oks, wr ++ [0]⟩) := by
  rw [hs.stage.step_rsh]
  simp only [rshStep, State.stage_phase, State.stage_afterOutWrite_ok, State.stage_cnt,
    countDown_ofNat_succ hn, ofNat_size_eq_zero (Nat.lt_of_succ_lt hn)]
  rfl

theorem step_rsIn (hs : s.Running (.rsh k q)) (hn : n + 1 < 2 ^ 64) :
    step (s.stage .rsIn (n + 1) h c ⟨.byte x :: rest, pos⟩ out)
      = .next (s.stage .rsOut n (funnel c x s.bits) x ⟨rest, pos + 1⟩ out) := by
  rw [hs.stage.step_rsh]
  simp only [rshStep, State.stage_phase, State.stage_afterInRead_byte, State.stage_cnt, countDown_ofNat_succ hn]
  rfl

theorem step_rsOut (hs : s.Running (.rsh k q)) :
    step (s.stage .rsOut n h c inp ⟨.ok :: oks, wr⟩) = .next (rshNext (s.stage .rsOut n h c inp ⟨oks, wr ++ [h]⟩)) := by
  rw [hs.stage.step_rsh]
  rfl

theorem step_rsDrain (hs : s.Running (.rsh k q)) (hn : n + 1 < 2 ^ 64) :
    step (s.stage .rsDrain (n + 1) h c ⟨.byte x :: rest, pos⟩ out)
      = .next (if n = 0 then (s.stage .rsDrain n h c ⟨rest, pos + 1⟩ out).finish .none none
          else s.stage .rsDrain n h c ⟨rest, pos + 1⟩ out) := by
  rw [hs.stage.step_rsh]
  simp only [rshStep, State.stage_phase, State.stage_afterInRead_byte, State.stage_cnt,
    countDown_ofNat_succ hn, ofNat_size_eq_zero (Nat.lt_of_succ_lt hn)]
  rfl

/-! ### RSH as a whole (rules R127, R135) -/

theorem runsTo_rsDrain (hs : s.Running (.rsh k q)) (hbs : bs ≠ []) (hlen : bs.length < 2 ^ 64) :
    runsTo bs.length (s.stage .rsDrain bs.length h c ⟨bytesThen bs rest, pos⟩ out)
      (s.finished ⟨rest, pos + bs.length⟩ out) :=
  runsTo_of_readPhase (m := 0) hbs hlen (step_rsDrain hs) runsTo_finish

/-- From RS_IN on: `x` and `xs` are the bytes to be shifted, `c` the byte before them, and the bytes `post` are only
read. -/
theorem runsTo_rsIn (hs : s.Running (.rsh k q)) (hpost : post.length = s.bo.toNat) (hlen : xs.length + 1 < 2 ^ 64) :
    runsTo (2 * (xs.length + 1) + post.length)
      (s.stage .rsIn (xs.length + 1) h c ⟨bytesThen (x :: xs) (bytesThen post rest), pos⟩
        ⟨oksThen (xs.length + 1) oks, wr⟩)
      (s.finished ⟨rest, pos + (xs.length + 1) + post.length⟩ ⟨oks, wr ++ funnels s.bits c (x :: xs)⟩) := by
  induction xs generalizing pos h c x wr with
  | nil =>
    rw [List.length_nil, Nat.zero_add, Nat.mul_one, Nat.add_comm 2]
    refine runsTo_of_step (step_rsIn hs (by omega)) (runsTo_of_step (step_rsOut hs) ?_)
    rw [rshNext_stage_zero]
    by_cases hbo : s.bo = 0
    · obtain rfl : post = [] := by simpa [hbo] using hpost
      rw [if_neg (not_not.mpr hbo)]
      exact runsTo_finish
    · have hpos := toNat_pos_of_ne_zero hbo
      have hlt := s.bo.isLt
      rw [if_pos hbo, ← hpost]
      exact runsTo_rsDrain hs (List.length_pos_iff.mp (by omega)) (by omega)
  | cons y ys ih =>
    have hys : ys.length + 1 < 2 ^ 64 := Nat.lt_of_succ_lt hlen
    have hsteps : 2 * (ys.length + 1 + 1) + post.length = 2 * (ys.length + 1) + post.length + 1 + 1 := by omega
    have hpos : pos + (ys.length + 1 + 1) = pos + 1 + (ys.length + 1) := by omega
    rw [List.length_cons, hsteps, hpos, bytesThen_cons x, oksThen_succ, funnels_cons, List.append_cons wr]
    refine runsTo_of_step (step_rsIn hs hlen) (runsTo_of_step (step_rsOut hs) ?_)
    rw [rshNext_stage_succ hys]
    exact ih hys

/-- The start of RSH: the zero bytes that the amount shifts into the stream are written. -/
theorem runsTo_startRsh (hs : s.Running (.rsh k q)) (hlen : s.len ≠ 0) (hn : n = min s.bo.toNat s.len.toNat)
    (hzeros : ∀ p, runsTo m (afterLeadingZeros (s.stage p 0 h c inp ⟨oks, wr ++ List.replicate n 0⟩)) t) :
    runsTo (n + m) (startRsh (s.stage p 0 h c inp ⟨oksThen n oks, wr⟩)) t := by
  rw [startRsh_stage hlen, ← hn]
  by_cases hbo : s.bo = 0
  · obtain rfl : n = 0 := by simpa [hbo] using hn
    rw [if_pos hbo, Nat.zero_add, ← List.append_nil wr]
    exact hzeros p
  · have hpos := toNat_pos_of_ne_zero hbo
    have hpos' := toNat_pos_of_ne_zero hlen
    have hlt := s.len.isLt
    rw [if_neg hbo]
    exact runsTo_of_zeroPhase (by omega) (by omega) (step_rsZero hs) (hzeros _)

/-- RSH from its start to its end (rule R135). -/
theorem runsTo_rsh (hs : s.Running (.rsh k q)) (hlen : s.len.toNat = bs.length) :
    runsTo (2 * bs.length) (startRsh (s.stage p 0 h c ⟨bytesThen bs rest, pos⟩ ⟨oksThen bs.length oks, wr⟩))
      (s.finished ⟨rest, pos + bs.length⟩ ⟨oks, wr ++ rightShift bs s.shamt.toNat⟩) := by
  by_cases h0 : s.len = 0
  · obtain rfl : bs = [] := by simpa [h0] using hlen.symm
    rw [startRsh, State.stage_len, if_pos h0, rightShift_nil, List.append_nil]
    exact runsTo_finish
  have hpos := toNat_pos_of_ne_zero h0
  have hlt := s.len.isLt
  by_cases hle : s.len ≤ s.bo
  · have hle' : s.len.toNat ≤ s.bo.toNat := hle
    have hshift : rightShift bs s.shamt.toNat = List.replicate bs.length 0 :=
      rightShift_of_length_le (by rw [s.shamt_eq]; omega)
    rw [Nat.two_mul, hshift]
    refine runsTo_startRsh hs h0 (by omega) fun p => ?_
    rw [afterLeadingZeros_stage_of_le hle, hlen]
    exact runsTo_rsDrain hs (List.length_pos_iff.mp (by omega)) (by omega)
  · have hlt' : s.bo.toNat < bs.length := by
      rw [← hlen]
      exact Nat.lt_of_not_le hle
    obtain ⟨x, xs, post, rfl, hpost⟩ := exists_cons_append_of_lt hlt'
    have hbs : (x :: xs ++ post).length = s.bo.toNat + (xs.length + 1) := by simp [hpost]; omega
    have hsteps : 2 * (x :: xs ++ post).length = s.bo.toNat + (2 * (xs.length + 1) + post.length) := by omega
    have hpos : pos + (x :: xs ++ post).length = pos + (xs.length + 1) + post.length := by omega
    have hshift := rightShift_eq_funnels (x :: xs) post s.bits_lt.le
    rw [hpost] at hshift
    rw [hsteps, hpos, hbs, oksThen_add, bytesThen_append, s.shamt_eq, hshift, ← List.append_assoc]
    refine runsTo_startRsh hs h0 (by omega) fun p => ?_
    rw [afterLeadingZeros_stage_of_lt (m := xs.length) (by omega)]
    exact runsTo_rsIn hs hpost (by omega)

end

/-- Settles O57: the step that issues RSH, then RSH from its start to its end. -/
theorem rshShiftsWholeStream : Obligations.RshShiftsWholeStream := by
  intro w k q s bs rest oks hready hd hlen hin hout
  refine runsTo_of_issue hready hd (exec_rsh k q) hin hout fun t ht => ?_
  have hs : t.Running (.rsh k q) := ht ▸ State.running_accepted hd
  have hlen' : t.len.toNat = bs.length := ht ▸ hlen
  have hshamt : t.shamt = s.shamt := ht ▸ rfl
  exact hshamt ▸ runsTo_rsh hs hlen'

end Sys2Proof.Machine

/-! One block step of any command (rules R34, R52): the transaction that PHASE names, and what the pseudocode after it
does to the block's registers. -/

namespace Sys2Proof.Machine

/-! ### Every command is a start and a block step -/

/-- The `start` of a command (rules R80, R91, R125, R127). -/
def startOf : Instr → State → State
  | .orb _ _ | .andb _ _ | .xorb _ _ | .not _ _ => startByte
  | .lsh _ _ => startLsh
  | .rsh _ _ => startRsh
  | .orf _ _ | .andf _ _ | .xorf _ _ => startFile

/-- The block step of a command (rules R80, R91, R95, R125, R127). -/
def blockOf : Instr → State → Outcome
  | .orb k _ => byteStep opOr k
  | .andb k _ => byteStep opAnd k
  | .xorb k _ => byteStep opXor k
  | .not k _ => byteStep opNot k
  | .lsh _ _ => lshStep
  | .rsh _ _ => rshStep
  | .orf pol _ => fileStep opOr pol
  | .andf pol _ => fileStep opAnd pol
  | .xorf pol _ => fileStep opXor pol

theorem exec_eq_runCommand (i : Instr) (s : State) : exec i s = runCommand (encode i) (startOf i) (blockOf i) s := by
  cases i <;> rfl

theorem exec_of_busy {i : Instr} {s : State} (h : s.status.busy = true) : exec i s = blockOf i s := by
  rw [exec_eq_runCommand, runCommand_busy h]

/-- `start` sets PHASE, so it does not depend on the PHASE it finds (rule R33). -/
theorem startOf_phase (i : Instr) (s : State) (p : Phase) : startOf i { s with phase := p } = startOf i s := by
  cases i <;> rfl

/-! ### Transactions -/

/-- `u` is `s` after the transaction of that kind, answered (rules R54 to R57). -/
inductive State.Transacts (s : State) : Transaction → State → Prop
  | inByte {v : Byte} {rest : List ReadAnswer} (h : s.input.answers = .byte v :: rest) :
      s.Transacts .inRead { s with input := { answers := rest, pos := s.input.pos + 1 } }
  | inEof {rest : List ReadAnswer} (h : s.input.answers = .eof :: rest) :
      s.Transacts .inRead { s with input := { s.input with answers := rest } }
  | inErr {c : Option Word} {rest : List ReadAnswer} (h : s.input.answers = .err c :: rest) :
      s.Transacts .inRead { s with input := { s.input with answers := rest } }
  | opByte {v : Byte} {rest : List ReadAnswer} (h : s.operand.answers = .byte v :: rest) :
      s.Transacts .opRead { s with operand := { s.operand with answers := rest, pos := s.operand.pos + 1 } }
  | opEof {rest : List ReadAnswer} (h : s.operand.answers = .eof :: rest) :
      s.Transacts .opRead { s with operand := { s.operand with answers := rest } }
  | opErr {c : Option Word} {rest : List ReadAnswer} (h : s.operand.answers = .err c :: rest) :
      s.Transacts .opRead { s with operand := { s.operand with answers := rest } }
  | rewindOk {rest : List Ack} (h : s.operand.rewinds = .ok :: rest) :
      s.Transacts .opRewind { s with operand := { s.operand with rewinds := rest, pos := s.operand.start } }
  | rewindErr {c : Option Word} {rest : List Ack} (h : s.operand.rewinds = .err c :: rest) :
      s.Transacts .opRewind { s with operand := { s.operand with rewinds := rest } }
  | outOk {v : Byte} {rest : List Ack} (h : s.output.answers = .ok :: rest) :
      s.Transacts (.outWrite v) { s with output := { answers := rest, written := s.output.written ++ [v] } }
  | outErr {v : Byte} {c : Option Word} {rest : List Ack} (h : s.output.answers = .err c :: rest) :
      s.Transacts (.outWrite v) { s with output := { s.output with answers := rest } }

/-- A transaction changes the ports and nothing of the block. -/
theorem State.Transacts.frame {s u : State} {tr : Transaction} (h : s.Transacts tr u) :
    u = { s with
      input := u.input
      operand := { u.operand with start := s.operand.start }
      output := u.output } := by
  cases h <;> rfl

/-! ### The running command -/

/-- OPPOS is the saturated position of the operand since its start (rules R33, R104). -/
def State.OperandCounted (s : State) : Prop :=
  s.operand.start ≤ s.operand.pos ∧ s.oppos.toNat = min (s.operand.pos - s.operand.start) (2 ^ 64 - 1)

/-- What `State.Inv` asks of the hidden registers while the command `i` runs. -/
structure State.Live (i : Instr) (s : State) : Prop where
  used : phaseUsedBy s.phase i = true
  count : s.countInRange
  counted : s.OperandCounted
  filled : ∀ f, streamFormFunction i = some f → s.opeof = true →
    (f.2 = .zeroFill ∨ f.2 = .oneFill) ∧ s.phase ≠ .fOp ∧ s.phase ≠ .fRew

/-- OPEOF is of no concern to a command without an operand. -/
theorem State.Live.of_no_operand {i : Instr} {s : State} (hi : streamFormFunction i = none)
    (used : phaseUsedBy s.phase i = true) (count : s.countInRange) (counted : s.OperandCounted) : s.Live i where
  used := used
  count := count
  counted := counted
  filled f hf := by rw [hi] at hf; cases hf

/-- What CMD, STATUS and ERRCODE hold while the command `i` runs (rules R18, R28, R166). -/
structure State.Unfinished (i : Instr) (s : State) : Prop where
  decodes : decode s.cmd = some i
  busy : s.status.busy = true
  clear : s.status.done = false ∧ s.status.short = false ∧ s.status.result = .none ∧ s.status.hascode = false
  errcode : s.errcode = 0

/-! ### The pseudocode after a transaction -/

/-- `t` is `u` after the pseudocode that follows a transaction of the command `i`: the command goes on, and is live if
`L` holds, or it ends with a result that it may have (rules R25, R27, R139). -/
inductive Resumes (L : Prop) (i : Instr) (u : State) : State → Prop
  | goesOn {t : State}
      (kept : t = { u with
        phase := t.phase, cnt := t.cnt, hold := t.hold, carry := t.carry, oppos := t.oppos, opeof := t.opeof })
      (live : L → t.Live i) : Resumes L i u t
  | ends {tag : ResultTag} {c : Option Word} (n : Size) (possible : tagPossible tag i = true)
      (code : c.isSome = true → tag ≠ .none ∧ tag ≠ .operandEOF) :
      Resumes L i u ({ u with cnt := n }.finish tag c)
  | short (shift : isShift i = true) : Resumes L i u u.shortInput

/-- A command may always end with None. -/
theorem Resumes.done {L : Prop} {i : Instr} {u : State} (n : Size) :
    Resumes L i u ({ u with cnt := n }.finish .none none) :=
  .ends n rfl (by simp)

section
variable {L : Prop} {i : Instr} {u t : State}

/-- The pseudocode touches no port, no parameter register and no sticky bit. -/
theorem Resumes.frame (h : Resumes L i u t) :
    t = { u with
      status := { t.status with illcmd := u.status.illcmd, wbusy := u.status.wbusy }
      errcode := t.errcode, phase := t.phase, cnt := t.cnt, hold := t.hold, carry := t.carry, oppos := t.oppos
      opeof := t.opeof } := by
  cases h with
  | goesOn kept _ => rw [kept]
  | ends | short => rfl

/-- The pseudocode leaves STATUS and ERRCODE alone, or records a result the command can have (rule R145). -/
theorem Resumes.records (h : Resumes L i u t) :
    (t.status = u.status ∧ t.errcode = u.errcode)
    ∨ (t.phase = .idle ∧ t.status.busy = false ∧ t.status.done = true ∧ tagPossible t.status.result i = true
      ∧ (t.status.hascode = false → t.errcode = 0)
      ∧ (t.status.hascode = true → t.status.result ≠ .none ∧ t.status.result ≠ .operandEOF)
      ∧ (t.status.short = u.status.short
        ∨ t.status.short = true ∧ t.status.result = .inputRead ∧ t.status.hascode = false ∧ isShift i = true)) := by
  cases h with
  | goesOn kept _ => exact .inl ⟨by rw [kept], by rw [kept]⟩
  | @ends _ c n possible code =>
    refine .inr ⟨rfl, rfl, rfl, possible, fun hc => ?_, code, .inl rfl⟩
    cases c with
    | none => rfl
    | some => cases hc
  | short shift => exact .inr ⟨rfl, rfl, rfl, rfl, fun _ => rfl, nofun, .inr ⟨rfl, rfl, rfl, shift⟩⟩

end

/-! ### A block step -/

/-- `t` is `s` after a block step of the command `i`: held by a silent port (rule R54), or moved by one transaction. -/
inductive BlockStep (i : Instr) (s : State) : State → Prop
  | held {tr : Transaction} (named : s.transaction = some tr) (silent : s.portSilent) : BlockStep i s s
  | moves {tr : Transaction} {u t : State} (named : s.transaction = some tr) (transacts : s.Transacts tr u)
      (resumes : Resumes (s.Live i) i u t) : BlockStep i s t

/-- A block step changes neither the parameter registers, the sticky bits nor anything outside the block but the ports
(rules R39, R53). -/
theorem BlockStep.frame {i : Instr} {s t : State} (h : BlockStep i s t) :
    t = { s with
      status := { t.status with illcmd := s.status.illcmd, wbusy := s.status.wbusy }
      errcode := t.errcode, phase := t.phase, cnt := t.cnt, hold := t.hold, carry := t.carry, oppos := t.oppos
      opeof := t.opeof, input := t.input, operand := { t.operand with start := s.operand.start }
      output := t.output } := by
  cases h with
  | held => rfl
  | moves _ transacts resumes =>
    rw [resumes.frame, transacts.frame]

section
variable {i : Instr} {s : State} {onByte : Byte → State → State} {onEof onOk : State → State}

theorem blockStep_afterInRead (named : s.transaction = some .inRead)
    (byte : ∀ v inp, Resumes (s.Live i) i { s with input := inp } (onByte v { s with input := inp }))
    (eof : ∀ inp, Resumes (s.Live i) i { s with input := inp } (onEof { s with input := inp })) :
    BlockStep i s (s.afterInRead onByte onEof) := by
  rcases s.afterInRead_cases onByte onEof with ⟨h, e⟩ | ⟨v, rest, h, e⟩ | ⟨rest, h, e⟩ | ⟨c, rest, h, e⟩ <;> rw [e]
  · exact .held named (by simp [State.portSilent, named, h])
  · exact .moves named (.inByte h) (byte ..)
  · exact .moves named (.inEof h) (eof _)
  · exact .moves named (.inErr h) (.ends s.cnt rfl (by simp))

theorem blockStep_afterOutWrite {v : Byte} (named : s.transaction = some (.outWrite v))
    (ok : ∀ out, Resumes (s.Live i) i { s with output := out } (onOk { s with output := out })) :
    BlockStep i s (s.afterOutWrite v onOk) := by
  rcases s.afterOutWrite_cases v onOk with ⟨h, e⟩ | ⟨rest, h, e⟩ | ⟨c, rest, h, e⟩ <;> rw [e]
  · exact .held named (by simp [State.portSilent, named, h])
  · exact .moves named (.outOk h) (ok _)
  · exact .moves named (.outErr h) (.ends s.cnt rfl (by simp))

theorem blockStep_afterOpRead (named : s.transaction = some .opRead) (hi : (streamFormFunction i).isSome = true)
    (byte : ∀ v rest,
      let u : State := { s with operand := { s.operand with answers := rest, pos := s.operand.pos + 1 } }
      Resumes (s.Live i) i u (onByte v u))
    (eof : ∀ rest,
      let u : State := { s with operand := { s.operand with answers := rest } }
      Resumes (s.Live i) i u (onEof u)) :
    BlockStep i s (s.afterOpRead onByte onEof) := by
  rcases s.afterOpRead_cases onByte onEof with ⟨h, e⟩ | ⟨v, rest, h, e⟩ | ⟨rest, h, e⟩ | ⟨c, rest, h, e⟩ <;> rw [e]
  · exact .held named (by simp [State.portSilent, named, h])
  · exact .moves named (.opByte h) (byte ..)
  · exact .moves named (.opEof h) (eof _)
  · exact .moves named (.opErr h) (.ends s.cnt hi (by simp))

theorem blockStep_afterOpRewind (named : s.transaction = some .opRewind) (hi : tagPossible .operandSeek i = true)
    (ok : ∀ rest,
      let u : State := { s with operand := { s.operand with rewinds := rest, pos := s.operand.start } }
      Resumes (s.Live i) i u (onOk u)) :
    BlockStep i s (s.afterOpRewind onOk) := by
  rcases s.afterOpRewind_cases onOk with ⟨h, e⟩ | ⟨rest, h, e⟩ | ⟨c, rest, h, e⟩ <;> rw [e]
  · exact .held named (by simp [State.portSilent, named, h])
  · exact .moves named (.rewindOk h) (ok _)
  · exact .moves named (.rewindErr h) (.ends s.cnt hi (by simp))

end

end Sys2Proof.Machine

/-! The block step of each command as a transaction and its pseudocode, and that it keeps the running command live
(rules R80, R91, R95, R125, R127). -/

namespace Sys2Proof.Machine

/-! ### Byte forms (rule R80) -/

theorem byteStep_blockStep {i : Instr} {op : Byte → Byte → Byte} {k : Byte} {s t : State}
    (hi : (byteFormFunction i).isSome = true) (hn : streamFormFunction i = none) (h : byteStep op k s = .next t) :
    BlockStep i s t := by
  unfold byteStep at h
  split at h <;> cases h
  next hp =>
    exact blockStep_afterInRead (by simp [State.transaction, hp])
      (fun v inp => .goesOn rfl fun hl => .of_no_operand hn hi trivial hl.counted) (fun inp => .done s.cnt)
  next hp =>
    exact blockStep_afterOutWrite (by simp [State.transaction, hp])
      (fun out => .goesOn rfl fun hl => .of_no_operand hn hi trivial hl.counted)

/-! ### Stream forms (rules R91, R95) -/

section
variable {i : Instr} {f op : Byte → Byte → Byte} {pol : Policy} {s t : State}

theorem resumes_fileInput {L : Prop} {u : State} (hi : streamFormFunction i = some (f, pol)) (a : Byte)
    (hcounted : L → u.OperandCounted)
    (hfilled : L → u.opeof = true → pol = .zeroFill ∨ pol = .oneFill) :
    Resumes L i u (fileInput op pol a u) := by
  have hused : (streamFormFunction i).isSome = true := by simp [hi]
  unfold fileInput
  split
  · refine .goesOn rfl fun hl => ⟨hused, trivial, hcounted hl, fun g hg heof => ?_⟩
    cases hi.symm.trans hg
    exact ⟨hfilled hl heof, nofun, nofun⟩
  next hno =>
    refine .goesOn rfl fun hl => ⟨hused, trivial, hcounted hl, fun g hg heof => ?_⟩
    rcases hfilled hl heof with rfl | rfl
    · exact (hno Config.fill0 heof rfl).elim
    · exact (hno Config.fill1 heof rfl).elim

theorem resumes_operandEof {L : Prop} {u : State} (hi : streamFormFunction i = some (f, pol))
    (hcounted : L → u.OperandCounted) (hclear : L → u.opeof = false) :
    Resumes L i u (operandEof op pol u) := by
  have hused : (streamFormFunction i).isSome = true := by simp [hi]
  cases pol with
  | error => exact .ends u.cnt (by simp [tagPossible, hi]) (by simp)
  | truncate => exact .done u.cnt
  | loop =>
    simp only [operandEof]
    split
    · exact .ends u.cnt (by simp [tagPossible, hi]) (by simp)
    · refine .goesOn rfl fun hl => ⟨by simp [phaseUsedBy, hi], trivial, hcounted hl, fun g _ heof => ?_⟩
      exact absurd heof (by simp [hclear hl])
  | zeroFill =>
    refine .goesOn rfl fun hl => ⟨hused, trivial, hcounted hl, fun g hg _ => ?_⟩
    cases hi.symm.trans hg
    exact ⟨.inl rfl, nofun, nofun⟩
  | oneFill =>
    refine .goesOn rfl fun hl => ⟨hused, trivial, hcounted hl, fun g hg _ => ?_⟩
    cases hi.symm.trans hg
    exact ⟨.inr rfl, nofun, nofun⟩

/-- OPEOF is 0 where an operand transaction is next (rule R105). -/
theorem State.Live.opeof_eq_false (hi : streamFormFunction i = some (f, pol)) (hl : s.Live i)
    (hp : s.phase = .fOp ∨ s.phase = .fRew) : s.opeof = false := by
  rw [Bool.eq_false_iff]
  intro heof
  obtain ⟨-, hop, hrew⟩ := hl.filled _ hi heof
  exact hp.elim hop hrew

/-- A byte read moves the operand and OPPOS together. -/
theorem State.OperandCounted.read (h : s.OperandCounted) (rest : List ReadAnswer) (v : Byte) (p : Phase) :
    { s with
      operand := { s.operand with answers := rest, pos := s.operand.pos + 1 }
      oppos := countUp s.oppos, hold := v, phase := p }.OperandCounted := by
  obtain ⟨hstart, hpos⟩ := h
  refine ⟨Nat.le_succ_of_le hstart, ?_⟩
  show (countUp s.oppos).toNat = min (s.operand.pos + 1 - s.operand.start) (2 ^ 64 - 1)
  rw [countUp_toNat, hpos]
  omega

theorem fileStep_blockStep (hi : streamFormFunction i = some (f, pol)) (h : fileStep op pol s = .next t) :
    BlockStep i s t := by
  have hused : (streamFormFunction i).isSome = true := by simp [hi]
  unfold fileStep at h
  split at h
  case h_1 hp =>
    cases h
    exact blockStep_afterInRead (by simp [State.transaction, hp])
      (fun v inp => resumes_fileInput hi v (·.counted) fun hl heof => (hl.filled _ hi heof).1) (fun inp => .done s.cnt)
  case h_2 hp =>
    cases h
    have hclear (hl : s.Live i) : s.opeof = false := hl.opeof_eq_false hi (.inl hp)
    refine blockStep_afterOpRead (by simp [State.transaction, hp]) hused
      (fun v rest => .goesOn rfl fun hl => ⟨hused, trivial, hl.counted.read .., fun g _ heof => ?_⟩)
      (fun rest => resumes_operandEof hi (·.counted) hclear)
    exact absurd heof (by simp [hclear hl])
  case h_3 hp =>
    split at h <;> cases h
    next hpol =>
    subst hpol
    refine blockStep_afterOpRewind (by simp [State.transaction, hp]) (by simp [tagPossible, hi])
      (fun rest => .goesOn rfl fun hl => ⟨hused, trivial, ⟨le_rfl, by simp⟩, fun g _ heof => ?_⟩)
    exact absurd heof (by simp [hl.opeof_eq_false hi (.inr hp)])
  case h_4 hp =>
    cases h
    refine blockStep_afterOutWrite (by simp [State.transaction, hp])
      (fun out => .goesOn rfl fun hl => ⟨hused, trivial, hl.counted, fun g hg heof => ?_⟩)
    exact ⟨(hl.filled g hg heof).1, nofun, nofun⟩
  case h_5 => cases h

end

/-! ### LSH (rule R125) -/

/-- A shift phase that counts down goes on with one byte less, or does `last` at the end (rules R16, R125, R127). -/
theorem resumes_countDown {L : Prop} {i : Instr} {u last : State} (hi : streamFormFunction i = none)
    (hp : u.phase = .lsSkip ∨ u.phase = .lsZero ∨ u.phase = .rsZero ∨ u.phase = .rsDrain)
    (hused : L → phaseUsedBy u.phase i = true) (hcounted : L → u.OperandCounted)
    (hrange : L → 0 < u.cnt.toNat ∧ u.cnt.toNat ≤ u.bo.toNat ∧ u.cnt.toNat ≤ u.len.toNat)
    (hlast : Resumes L i u last) :
    Resumes L i u (if countDown u.cnt = 0 then last else { u with cnt := countDown u.cnt }) := by
  split
  · exact hlast
  next h0 =>
  refine .goesOn rfl fun hl => .of_no_operand hi (hused hl) ?_ (hcounted hl)
  obtain ⟨-, hbo, hlen⟩ := hrange hl
  have hdown : (countDown u.cnt).toNat ≤ u.cnt.toNat := countDown_toNat u.cnt ▸ Nat.sub_le ..
  have hrest := And.intro (toNat_pos_of_ne_zero h0) (And.intro (hdown.trans hbo) (hdown.trans hlen))
  unfold State.countInRange
  rcases hp with hp | hp | hp | hp <;> rw [hp] <;> exact hrest

section
variable {L : Prop} {k : Byte} {q : BitVec 3} {s t u : State}

theorem resumes_afterSkip (n : Size) (hcounted : L → u.OperandCounted) (hlen : L → 0 < u.len.toNat) :
    Resumes L (.lsh k q) u (afterSkip { u with cnt := n }) := by
  unfold afterSkip
  split
  next hle => exact .goesOn rfl fun hl => .of_no_operand rfl rfl ⟨hlen hl, hle, le_rfl⟩ (hcounted hl)
  next hlt => exact .goesOn rfl fun hl => .of_no_operand rfl rfl (Nat.lt_of_not_le hlt) (hcounted hl)

theorem resumes_lshNext (x : Byte) (n : Size) (hcounted : L → u.OperandCounted)
    (hcount : L → u.bo.toNat + n.toNat < u.len.toNat) :
    Resumes L (.lsh k q) u (lshNext { u with carry := x, cnt := n }) := by
  unfold lshNext
  split
  next h0 =>
    exact .goesOn rfl fun hl =>
      .of_no_operand rfl rfl ⟨h0, lt_of_le_of_lt (Nat.le_add_right ..) (hcount hl)⟩ (hcounted hl)
  next h0 =>
    exact .goesOn rfl fun hl => .of_no_operand rfl rfl ⟨toNat_pos_of_ne_zero h0, hcount hl⟩ (hcounted hl)

theorem lshStep_blockStep (h : lshStep s = .next t) : BlockStep (.lsh k q) s t := by
  have range (hl : s.Live (.lsh k q)) := hl.count
  unfold lshStep at h
  split at h <;> cases h
  all_goals
    rename_i hp
    simp only [State.countInRange, hp] at range
  case h_1 =>
    refine blockStep_afterInRead (by simp [State.transaction, hp]) (fun v inp => ?_) (fun inp => .short rfl)
    exact resumes_countDown rfl (by simp [hp]) (·.used) (·.counted) range
      (resumes_afterSkip _ (·.counted) fun hl => have ⟨hpos, _, hlen⟩ := range hl; hpos.trans_le hlen)
  case h_2 =>
    refine blockStep_afterInRead (by simp [State.transaction, hp])
      (fun x inp => resumes_lshNext x _ (·.counted) fun hl => ?_) (fun inp => .short rfl)
    show s.bo.toNat + (s.len - s.bo - 1).toNat < s.len.toNat
    have := range hl
    bv_omega
  case h_3 =>
    refine blockStep_afterInRead (by simp [State.transaction, hp])
      (fun x inp => .goesOn rfl fun hl => .of_no_operand rfl rfl ?_ hl.counted) (fun inp => .short rfl)
    show s.bo.toNat + (countDown s.cnt).toNat + 1 < s.len.toNat
    have := range hl
    rw [countDown_toNat]
    omega
  case h_4 =>
    exact blockStep_afterOutWrite (by simp [State.transaction, hp])
      (fun out => resumes_lshNext s.carry s.cnt (·.counted) fun hl => (Nat.lt_succ_self _).trans (range hl))
  case h_5 =>
    refine blockStep_afterOutWrite (by simp [State.transaction, hp]) (fun out => ?_)
    split
    next => exact .done _
    next h0 =>
      exact .goesOn rfl fun hl => .of_no_operand rfl rfl ⟨toNat_pos_of_ne_zero h0, le_rfl, (range hl).2.le⟩ hl.counted
  case h_6 =>
    refine blockStep_afterOutWrite (by simp [State.transaction, hp]) (fun out => ?_)
    exact resumes_countDown rfl (by simp [hp]) (·.used) (·.counted) range (.done _)

end

/-! ### RSH (rule R127) -/

section
variable {L : Prop} {k : Byte} {q : BitVec 3} {s t u : State}

theorem resumes_afterLeadingZeros (n : Size) (hcounted : L → u.OperandCounted) (hlen : L → 0 < u.len.toNat) :
    Resumes L (.rsh k q) u (afterLeadingZeros { u with cnt := n }) := by
  unfold afterLeadingZeros
  split
  next hle => exact .goesOn rfl fun hl => .of_no_operand rfl rfl ⟨hlen hl, hle, le_rfl⟩ (hcounted hl)
  next hlt =>
    have hlt : u.bo.toNat < u.len.toNat := Nat.lt_of_not_le hlt
    refine .goesOn rfl fun hl => .of_no_operand rfl rfl ?_ (hcounted hl)
    show 0 < (u.len - u.bo).toNat ∧ u.bo.toNat + (u.len - u.bo).toNat ≤ u.len.toNat
    rw [BitVec.toNat_sub_of_le hlt.le]
    omega

theorem rshStep_blockStep (h : rshStep s = .next t) : BlockStep (.rsh k q) s t := by
  have range (hl : s.Live (.rsh k q)) := hl.count
  unfold rshStep at h
  split at h <;> cases h
  all_goals
    rename_i hp
    simp only [State.countInRange, hp] at range
  case h_1 =>
    refine blockStep_afterOutWrite (by simp [State.transaction, hp]) (fun out => ?_)
    exact resumes_countDown rfl (by simp [hp]) (·.used) (·.counted) range
      (resumes_afterLeadingZeros _ (·.counted) fun hl => have ⟨hpos, _, hlen⟩ := range hl; hpos.trans_le hlen)
  case h_2 =>
    refine blockStep_afterInRead (by simp [State.transaction, hp])
      (fun x inp => .goesOn rfl fun hl => .of_no_operand rfl rfl ?_ hl.counted) (fun inp => .short rfl)
    show s.bo.toNat + (countDown s.cnt).toNat < s.len.toNat
    have := range hl
    rw [countDown_toNat]
    omega
  case h_3 =>
    refine blockStep_afterOutWrite (by simp [State.transaction, hp]) (fun out => ?_)
    dsimp only
    split_ifs with hcnt hbo
    · exact .goesOn rfl fun hl => .of_no_operand rfl rfl ⟨toNat_pos_of_ne_zero hcnt, (range hl).le⟩ hl.counted
    · exact .goesOn rfl fun hl => .of_no_operand rfl rfl
        ⟨toNat_pos_of_ne_zero hbo, le_rfl, (Nat.le_add_right ..).trans (range hl).le⟩ hl.counted
    · exact .done s.cnt
  case h_4 =>
    refine blockStep_afterInRead (by simp [State.transaction, hp]) (fun x inp => ?_) (fun inp => .short rfl)
    exact resumes_countDown rfl (by simp [hp]) (·.used) (·.counted) range (.done _)

end

/-! ### Every command -/

theorem blockOf_blockStep {i : Instr} {s t : State} (h : blockOf i s = .next t) : BlockStep i s t := by
  cases i with
  | orb | andb | xorb | not => exact byteStep_blockStep rfl rfl h
  | lsh => exact lshStep_blockStep h
  | rsh => exact rshStep_blockStep h
  | orf | andf | xorf => exact fileStep_blockStep rfl h

/-- If `exec` of a command answers a next state on a busy block, that was a block step. -/
theorem exec_blockStep {i : Instr} {s t : State} (hbusy : s.status.busy = true) (h : exec i s = .next t) :
    BlockStep i s t :=
  blockOf_blockStep (by rwa [exec_of_busy hbusy] at h)

end Sys2Proof.Machine

/-! The invariant of the block (`State.Inv`): at the start of a command, over a block step, at reset, and over
every step of the machine. -/

namespace Sys2Proof.Machine

/-! ### The invariant of a running command -/

section
variable {i : Instr} {s u t : State} {L : Prop}

theorem State.Inv.unfinished (h : s.Inv) (hbusy : s.status.busy = true) (hd : decode s.cmd = some i) :
    s.Unfinished i := by
  have hclear := h.busy_clear hbusy
  have ⟨_, _, _, hcode⟩ := hclear
  exact ⟨hd, hbusy, hclear, h.no_code hcode⟩

theorem State.Inv.live (h : s.Inv) (hbusy : s.status.busy = true) (hd : decode s.cmd = some i) : s.Live i where
  used := h.phase_used i hd hbusy
  count := h.count
  counted := h.operand_count hbusy
  filled f hf := h.operand_filled i f hd hf hbusy

/-- A live command has the invariant. -/
theorem State.Unfinished.inv (hu : s.Unfinished i) (hl : s.Live i) : s.Inv := by
  obtain ⟨hd, hbusy, ⟨hdone, hshort, hresult, hcode⟩, herr⟩ := hu
  have hphase : s.phase ≠ .idle := fun h => by simpa [h, phaseUsedBy] using hl.used
  have hcmd {j : Instr} (hj : decode s.cmd = some j) : i = j := Option.some.inj (hd.symm.trans hj)
  exact
    { cmd_legal := by rw [hd]; rfl
      busy_iff := ⟨fun _ => hphase, fun _ => hbusy⟩
      phase_used := fun j hj _ => hcmd hj ▸ hl.used
      busy_clear := fun _ => ⟨hdone, hshort, hresult, hcode⟩
      no_code := fun _ => herr
      code_tag := fun h => by simp [hcode] at h
      short_tag := fun h => by simp [hshort] at h
      tag_possible := fun j _ => by rw [hresult]; rfl
      count := hl.count
      operand_count := fun _ => hl.counted
      operand_filled := fun j f hj hf _ => hl.filled f (hcmd hj ▸ hf) }

/-- A command that ends with a result it may have leaves the invariant. -/
theorem State.Unfinished.finish_inv (hu : u.Unfinished i) {tag : ResultTag} {c : Option Word}
    (possible : tagPossible tag i = true) (code : c.isSome = true → tag ≠ .none ∧ tag ≠ .operandEOF) :
    (u.finish tag c).Inv where
  cmd_legal := by simp [hu.decodes]
  busy_iff := by simp
  phase_used := by simp
  busy_clear := by simp
  no_code := by cases c <;> simp
  code_tag := code
  short_tag := by simp [hu.clear]
  tag_possible j hj := Option.some.inj (hu.decodes.symm.trans hj) ▸ possible
  count := trivial
  operand_count := by simp
  operand_filled := by simp

/-- A shift whose input ends early leaves the invariant. -/
theorem State.Unfinished.shortInput_inv (hu : u.Unfinished i) (shift : isShift i = true) : u.shortInput.Inv where
  cmd_legal := by simp [hu.decodes]
  busy_iff := by simp
  phase_used := by simp
  busy_clear := by simp
  no_code := by simp
  code_tag := by simp
  short_tag _ := ⟨rfl, rfl, fun j hj => Option.some.inj (hu.decodes.symm.trans hj) ▸ shift⟩
  tag_possible _ _ := rfl
  count := trivial
  operand_count := by simp
  operand_filled := by simp

theorem Resumes.inv (h : Resumes L i u t) (hL : L) (hu : u.Unfinished i) : t.Inv := by
  cases h with
  | goesOn kept live =>
    have ht : t.Unfinished i := by rw [kept]; exact { hu with }
    exact ht.inv (live hL)
  | ends n possible code =>
    have hn : { u with cnt := n }.Unfinished i := { hu with }
    exact hn.finish_inv possible code
  | short shift => exact hu.shortInput_inv shift

/-- A block step from the invariant leads to the invariant. -/
theorem BlockStep.inv (h : BlockStep i s t) (hi : s.Inv) (hbusy : s.status.busy = true) (hd : decode s.cmd = some i) :
    t.Inv := by
  cases h with
  | held => exact hi
  | moves _ transacts resumes =>
    refine resumes.inv (hi.live hbusy hd) ?_
    rw [transacts.frame]
    exact { hi.unfinished hbusy hd with }

/-! ### The start of a command -/

/-- The first count of LS_SKIP and RS_ZERO: some bytes, as many as SHAMT and LEN both have (rules R125, R127). -/
theorem ite_le_in_range {x y : Size} (hx : x ≠ 0) (hy : y ≠ 0) :
    0 < (if x ≤ y then x else y).toNat ∧ (if x ≤ y then x else y).toNat ≤ x.toNat
      ∧ (if x ≤ y then x else y).toNat ≤ y.toNat := by
  have hx := toNat_pos_of_ne_zero hx
  have hy := toNat_pos_of_ne_zero hy
  split <;> rename_i hxy <;> rw [BitVec.le_def] at hxy <;> omega

/-- An accepted command starts live, or ends at once (rule R129). -/
theorem resumes_startOf (w : Word) (s : State) :
    Resumes True i (s.accepted w) (startOf i (s.accepted w)) := by
  have hcounted : (s.accepted w).OperandCounted := ⟨le_rfl, by simp⟩
  cases i with
  | orb | andb | xorb | not => exact .goesOn rfl fun _ => .of_no_operand rfl rfl trivial hcounted
  | orf | andf | xorf => exact .goesOn rfl fun _ => ⟨rfl, trivial, hcounted, nofun⟩
  | lsh =>
    simp only [startOf, startLsh]
    split
    · exact .done 0
    next hlen =>
    split
    · exact resumes_afterSkip 0 (fun _ => hcounted) fun _ => toNat_pos_of_ne_zero hlen
    next hbo => exact .goesOn rfl fun _ => .of_no_operand rfl rfl (ite_le_in_range hbo hlen) hcounted
  | rsh =>
    simp only [startOf, startRsh]
    split
    · exact .done 0
    next hlen =>
    split
    · exact resumes_afterLeadingZeros 0 (fun _ => hcounted) fun _ => toNat_pos_of_ne_zero hlen
    next hbo => exact .goesOn rfl fun _ => .of_no_operand rfl rfl (ite_le_in_range hbo hlen) hcounted

/-- Acceptance of a legal word establishes the invariant, whatever held before. -/
theorem startOf_accepted_inv {w : Word} (hd : decode w = some i) : (startOf i (s.accepted w)).Inv :=
  (resumes_startOf w s).inv trivial ⟨hd, rfl, ⟨rfl, rfl, rfl, rfl⟩, rfl⟩

end

/-! ### Reset -/

theorem State.resetBlock_inv (s : State) : s.resetBlock.Inv where
  cmd_legal := by rw [State.resetBlock_cmd]; decide
  busy_iff := by simp [Status.reset]
  phase_used := by simp [Status.reset]
  busy_clear := by simp [Status.reset]
  no_code _ := rfl
  code_tag := by simp [Status.reset]
  short_tag := by simp [Status.reset]
  tag_possible _ _ := rfl
  count := trivial
  operand_count := by simp [Status.reset]
  operand_filled := by simp [Status.reset]

/-- Settles O45: the state after power-on is one that reset leaves. -/
theorem resetHasInvariant : Obligations.ResetHasInvariant :=
  State.reset.resetBlock_inv

/-! ### What one step does, by its event -/

/-- `t` is `s` after the event at the head of the agenda, or after a block turn where there is none (rules R46, R47,
R52, R160). -/
inductive Effect (s : State) : Option Event → State → Prop
  | read (off : Nat) : Effect s (some (.read 4 off)) { s with rdata := s.register off }
  | clearStatus (v : Word) : Effect s (some (.write 4 0x04 v)) { s with status := s.status.writeOneToClear v }
  | ignoredWrite {off : Nat} (v : Word) (hoff : off = 0x08 ∨ off = 0x1C) : Effect s (some (.write 4 off v)) s
  | frozenWrite {off : Nat} (v : Word) (hoff : off ∈ [0x00, 0x0C, 0x10, 0x14, 0x18]) (busy : s.status.busy = true) :
      Effect s (some (.write 4 off v)) s.writeWhileBusy
  | parameterWrite {off : Nat} {a b c d : Word} (v : Word) (hoff : off ∈ [0x0C, 0x10, 0x14, 0x18])
      (idle : s.status.busy = false) :
      Effect s (some (.write 4 off v)) { s with shamtLo := a, shamtHi := b, lenLo := c, lenHi := d }
  | illegalWord {w : Word} (idle : s.status.busy = false) (illegal : decode w = none) :
      Effect s (some (.write 4 0x00 w)) s.illegalCommand
  | accepts {w : Word} {i : Instr} (idle : s.status.busy = false) (legal : decode w = some i) :
      Effect s (some (.write 4 0x00 w)) (startOf i (s.accepted w))
  | idleTurn {e : Option Event} (he : e = none ∨ e = some .block) (idle : s.status.busy = false) : Effect s e s
  | blockTurn {e : Option Event} {i : Instr} {t : State} (he : e = none ∨ e = some .block)
      (busy : s.status.busy = true) (running : decode s.cmd = some i) (moved : BlockStep i s t) : Effect s e t
  | reset : Effect s (some .reset) s.resetBlock

section
variable {s t : State}

theorem exec_accepts {w : Word} {i : Instr} (hd : decode w = some i) (hidle : s.status.busy = false)
    (h : exec i s = .next t) : t = startOf i (s.accepted w) := by
  rw [exec_eq_runCommand, encode_of_decode hd] at h
  rcases runCommand_next h with ⟨hbusy, -⟩ | ⟨-, -, ht⟩
  · simp [hidle] at hbusy
  · exact ht

theorem hostRead_effect {width off : Nat} (h : hostRead width off s = .next t) :
    Effect s (some (.read width off)) t := by
  unfold hostRead at h
  split at h <;> cases h
  next hacc =>
  obtain ⟨rfl, -, -⟩ := accessRefusal_none hacc
  exact .read off

theorem writeParameter_effect {off : Nat} (v : Word) (hoff : off ∈ [0x0C, 0x10, 0x14, 0x18]) :
    Effect s (some (.write 4 off v)) (s.writeParameter off v) := by
  rcases s.writeParameter_cases off v with ⟨hbusy, e⟩ | ⟨hidle, e | e | e | e | e⟩ <;> rw [e]
  · exact .frozenWrite v (List.mem_cons_of_mem _ hoff) hbusy
  all_goals exact .parameterWrite v hoff hidle

theorem acceptWord_effect {w : Word} (h : acceptWord w s = .next t) : Effect s (some (.write 4 0x00 w)) t := by
  rcases acceptWord_next h with ⟨hbusy, rfl⟩ | ⟨hidle, hnone, rfl⟩ | ⟨hidle, i, hd, hexec⟩
  · exact .frozenWrite w (by simp) hbusy
  · exact .illegalWord hidle hnone
  · obtain rfl := exec_accepts hd hidle hexec
    exact .accepts hidle hd

/-- The words of the window that are not CMD, STATUS, ERRCODE or the unused one (rule R17). -/
theorem mem_parameter_offsets {off : Nat} (haligned : off % 4 = 0) (hin : off < 32) (h00 : off ≠ 0x00)
    (h04 : off ≠ 0x04) (h08 : off ≠ 0x08) (h1C : off ≠ 0x1C) : off ∈ [0x0C, 0x10, 0x14, 0x18] := by
  simp only [List.mem_cons, List.not_mem_nil, or_false]
  omega

theorem hostWrite_effect {width off : Nat} {v : Word} (h : hostWrite width off v s = .next t) :
    Effect s (some (.write width off v)) t := by
  unfold hostWrite at h
  split at h
  · cases h
  next hacc =>
  obtain ⟨rfl, haligned, hin⟩ := accessRefusal_none hacc
  split at h
  · exact acceptWord_effect h
  · cases h; exact .clearStatus v
  · cases h; exact .ignoredWrite v (.inl rfl)
  · cases h; exact .ignoredWrite v (.inr rfl)
  next h00 h04 h08 h1C =>
    cases h
    exact writeParameter_effect v (mem_parameter_offsets haligned hin h00 h04 h08 h1C)

theorem blockTurn_effect {e : Option Event} (he : e = none ∨ e = some .block) (h : blockTurn s = .next t) :
    Effect s e t := by
  unfold blockTurn at h
  split at h
  next hbusy =>
    split at h
    next i hd => exact .blockTurn he hbusy hd (exec_blockStep hbusy h)
    · cases h
  next hidle =>
    cases h
    exact .idleTurn he (by simpa using hidle)

/-- All that a step which answers a next state can have done. -/
theorem step_effect (h : step s = .next t) : Effect { s with agenda := s.agenda.tail } s.agenda.head? t := by
  rcases hagenda : s.agenda with _ | ⟨e, rest⟩
  · rw [step_of_nil hagenda] at h
    have hs : s = { s with agenda := [] } := by rw [← hagenda]
    exact blockTurn_effect (.inl rfl) (hs ▸ h)
  · rw [step_of_cons hagenda] at h
    cases e with
    | read width off => exact hostRead_effect h
    | write width off v => exact hostWrite_effect h
    | block => exact blockTurn_effect (.inr rfl) h
    | reset => cases h; exact .reset

theorem Effect.inv {e : Option Event} (h : Effect s e t) (hi : s.Inv) : t.Inv := by
  cases h with
  | read | frozenWrite | illegalWord => exact { hi with }
  | clearStatus v =>
    exact { hi with
      busy_clear := fun hbusy => by
        obtain ⟨hdone, hrest⟩ := hi.busy_clear hbusy
        exact ⟨by simp [Status.writeOneToClear, hdone], hrest⟩ }
  | parameterWrite v hoff idle =>
    have hphase : s.phase = .idle := by simpa [idle] using hi.busy_iff
    exact { hi with count := by simp [State.countInRange, hphase] }
  | accepts idle legal => exact startOf_accepted_inv legal
  | blockTurn he busy running moved => exact moved.inv hi busy running
  | ignoredWrite | idleTurn => exact hi
  | reset => exact s.resetBlock_inv

end

/-- Settles O46: by what a step can have done (`step_effect`); a block step and the start of a command keep the running
command live. -/
theorem stepKeepsInvariant : Obligations.StepKeepsInvariant := fun _ _ hi h =>
  (step_effect h).inv { hi with }

end Sys2Proof.Machine

/-! What a block step, a host access and a reset do to the block, and what the whole machine never does: the obligations
that rest on `BlockStep` and `Effect`. -/

namespace Sys2Proof.Machine

/-! ### Block steps -/

/-- Settles O13: a register is no hidden register; acceptance overwrites CNT, HOLD, CARRY, OPPOS and OPEOF, and `start`
overwrites PHASE. -/
theorem idleHiddenRegistersUnobservable : Obligations.IdleHiddenRegistersUnobservable := by
  intro s p n o h c e u
  refine ⟨fun off => rfl, fun i hidle => ?_⟩
  cases haliased : s.portsAliased with
  | true =>
    rw [exec_eq_runCommand, exec_eq_runCommand, runCommand_aliased (s := u) hidle haliased,
      runCommand_aliased hidle haliased]
  | false =>
    rw [exec_eq_runCommand, exec_eq_runCommand, runCommand_idle (s := u) hidle haliased, runCommand_idle hidle haliased]
    exact congrArg Host.Outcome.next (startOf_phase i (s.accepted (encode i)) p)

/-- Settles O35: the frame of a block step, and the port that its transaction moves. -/
theorem blockStepIsOneTransaction : Obligations.BlockStepIsOneTransaction := by
  intro i s t hbusy h
  have hstep := exec_blockStep hbusy h
  constructor
  · rw [hstep.frame]
    exact ⟨rfl, rfl, rfl, rfl, rfl, rfl, rfl, rfl, rfl⟩
  cases hstep with
  | @held tr named silent =>
    rw [State.portSilent, named] at silent
    rw [named]
    cases tr with
    | inRead | outWrite => exact ⟨rfl, rfl, .inl ⟨silent, rfl⟩⟩
    | opRead | opRewind => exact ⟨rfl, rfl, rfl, .inl ⟨silent, rfl⟩⟩
  | moves named transacts resumes =>
    rw [named, resumes.frame]
    cases transacts with
    | inByte h => exact ⟨rfl, rfl, .inr (.inl ⟨_, h, rfl⟩)⟩
    | inEof h => exact ⟨rfl, rfl, .inr (.inr ⟨.inr h, rfl⟩)⟩
    | inErr h => exact ⟨rfl, rfl, .inr (.inr ⟨.inl ⟨_, h⟩, rfl⟩)⟩
    | opByte h => exact ⟨rfl, rfl, rfl, .inr (.inl ⟨_, h, rfl⟩)⟩
    | opEof h => exact ⟨rfl, rfl, rfl, .inr (.inr ⟨.inr h, rfl⟩)⟩
    | opErr h => exact ⟨rfl, rfl, rfl, .inr (.inr ⟨.inl ⟨_, h⟩, rfl⟩)⟩
    | rewindOk h => exact ⟨rfl, rfl, rfl, .inr (.inl ⟨h, rfl⟩)⟩
    | rewindErr h => exact ⟨rfl, rfl, rfl, .inr (.inr ⟨⟨_, h⟩, rfl⟩)⟩
    | outOk h => exact ⟨rfl, rfl, .inr (.inl ⟨h, rfl⟩)⟩
    | outErr h => exact ⟨rfl, rfl, .inr (.inr ⟨⟨_, h⟩, rfl⟩)⟩

/-- Settles O36: a transaction leaves STATUS and ERRCODE alone, and what follows it records at most a result. -/
theorem blockStepRecordsOnlyAtFinish : Obligations.BlockStepRecordsOnlyAtFinish := by
  intro i s t hbusy _ h
  cases exec_blockStep hbusy h with
  | held => exact .inl ⟨rfl, rfl⟩
  | moves _ transacts resumes =>
    have hrecords := resumes.records
    rw [transacts.frame] at hrecords
    exact hrecords

/-! ### The whole machine -/

/-- A command has a block step in each of its phases (rule R34). -/
theorem blockOf_next_of_used {i : Instr} {s : State} (h : phaseUsedBy s.phase i = true) :
    ∃ t, blockOf i s = .next t := by
  cases i with
  | orb | andb | xorb | not =>
    simp only [blockOf, byteStep]
    split
    case h_3 hin hout => cases hp : s.phase <;> simp_all [phaseUsedBy, streamFormFunction]
    all_goals exact ⟨_, rfl⟩
  | lsh =>
    simp only [blockOf, lshStep]
    split
    case h_7 => cases hp : s.phase <;> simp_all [phaseUsedBy, byteFormFunction, streamFormFunction]
    all_goals exact ⟨_, rfl⟩
  | rsh =>
    simp only [blockOf, rshStep]
    split
    case h_5 => cases hp : s.phase <;> simp_all [phaseUsedBy, byteFormFunction, streamFormFunction]
    all_goals exact ⟨_, rfl⟩
  | orf pol | andf pol | xorf pol =>
    simp only [blockOf, fileStep]
    split
    case h_3 hp =>
      have hpol : pol = .loop := by simpa [hp, phaseUsedBy, streamFormFunction] using h
      exact ⟨_, if_pos hpol⟩
    case h_5 => cases hp : s.phase <;> simp_all [phaseUsedBy, byteFormFunction]
    all_goals exact ⟨_, rfl⟩

/-- From a state with the invariant the block always has its turn. -/
theorem State.Inv.blockTurn_next {s : State} (hi : s.Inv) : ∃ t, blockTurn s = .next t := by
  cases hbusy : s.status.busy with
  | false => exact ⟨s, blockTurn_of_idle hbusy⟩
  | true =>
    obtain ⟨i, hd⟩ := Option.isSome_iff_exists.mp hi.cmd_legal
    rw [blockTurn_of_busy hbusy hd, exec_of_busy hbusy]
    exact blockOf_next_of_used (hi.phase_used i hd hbusy)

theorem hostRead_ne_fault {width off : Nat} {s : State} {r : Fault} : hostRead width off s ≠ .fault r := by
  unfold hostRead
  split <;> nofun

theorem acceptWord_ne_fault {w : Word} {s : State} {r : Fault} : acceptWord w s ≠ .fault r := by
  unfold acceptWord
  split
  · nofun
  next hidle =>
    split
    · nofun
    · rw [exec_eq_runCommand, runCommand, if_neg hidle]
      split <;> nofun

theorem hostWrite_ne_fault {width off : Nat} {v : Word} {s : State} {r : Fault} :
    hostWrite width off v s ≠ .fault r := by
  unfold hostWrite
  split
  · nofun
  · split
    · exact acceptWord_ne_fault
    all_goals nofun

/-- Settles O47: a block turn and a reset answer a next state, and a host access raises no fault. -/
theorem invariantStatesNeverFault : Obligations.InvariantStatesNeverFault := by
  intro s hi
  rcases hagenda : s.agenda with _ | ⟨e, rest⟩
  · obtain ⟨t, ht⟩ := hi.blockTurn_next
    rw [step_of_nil hagenda, ht]
    exact ⟨nofun, nofun⟩
  rw [step_of_cons hagenda]
  cases e with
  | read width off => exact ⟨fun _ => hostRead_ne_fault, fun _ _ => ⟨_, _, rfl, nofun, nofun⟩⟩
  | write width off v => exact ⟨fun _ => hostWrite_ne_fault, fun _ _ => ⟨_, _, rfl, nofun, nofun⟩⟩
  | block =>
    have hi' : { s with agenda := rest }.Inv := { hi with }
    obtain ⟨t, ht⟩ := hi'.blockTurn_next
    rw [runEvent, ht]
    exact ⟨nofun, nofun⟩
  | reset => exact ⟨nofun, nofun⟩

theorem Effect.parameters_eq {s t : State} {e : Option Event} (h : Effect s e t) (hbusy : s.status.busy = true)
    (hreset : e ≠ some .reset) :
    t.cmd = s.cmd ∧ t.shamtLo = s.shamtLo ∧ t.shamtHi = s.shamtHi ∧ t.lenLo = s.lenLo ∧ t.lenHi = s.lenHi := by
  cases h with
  | read | clearStatus | ignoredWrite | frozenWrite | idleTurn => exact ⟨rfl, rfl, rfl, rfl, rfl⟩
  | parameterWrite _ _ idle | illegalWord idle | accepts idle => exact (Bool.eq_false_iff.mp idle hbusy).elim
  | blockTurn _ _ _ moved =>
    rw [moved.frame]
    exact ⟨rfl, rfl, rfl, rfl, rfl⟩
  | reset => exact absurd rfl hreset

/-- Settles O48: a busy block is written to in vain, and its own steps touch no parameter register. -/
theorem parametersFrozenWhileBusy : Obligations.ParametersFrozenWhileBusy := fun _ _ hbusy hreset h =>
  (step_effect h).parameters_eq hbusy hreset

/-- An event other than reset and the write of a legal word to CMD leaves an idle block idle, with its CMD. -/
theorem Effect.idle_or_accepts {s t : State} {e : Option Event} (h : Effect s e t) (hidle : s.status.busy = false)
    (hreset : e ≠ some .reset) :
    (t.status.busy = false ∧ (t.status.done = true → s.status.done = true) ∧ t.cmd = s.cmd)
    ∨ ∃ w i, e = some (.write 4 0x00 w) ∧ decode w = some i := by
  cases h with
  | read | ignoredWrite | parameterWrite | illegalWord | idleTurn => exact .inl ⟨hidle, id, rfl⟩
  | clearStatus v => exact .inl ⟨hidle, fun hdone => (Bool.and_eq_true_iff.mp hdone).1, rfl⟩
  | accepts _ legal => exact .inr ⟨_, _, rfl, legal⟩
  | frozenWrite _ _ busy | blockTurn _ busy => exact (Bool.eq_false_iff.mp hidle busy).elim
  | reset => exact absurd rfl hreset

/-- Settles O49: of all that can happen to an idle block, only the acceptance of a legal word starts a command. -/
theorem onlyCmdWriteStartsCommand : Obligations.OnlyCmdWriteStartsCommand := by
  intro s t hidle hreset h hstarts
  rcases (step_effect h).idle_or_accepts hidle hreset with ⟨hbusy, hdone, hcmd⟩ | ⟨w, i, hhead, hd⟩
  · rcases hstarts with hb | ⟨hd, hd'⟩ | hc
    · exact (Bool.eq_false_iff.mp hbusy hb).elim
    · exact (Bool.eq_false_iff.mp hd' (hdone hd)).elim
    · exact absurd hcmd hc
  · obtain ⟨rest, hagenda⟩ := List.head?_eq_some_iff.mp hhead
    exact ⟨w, rest, i, hagenda, hd⟩

/-- Settles O50: by what a step can have done; a command, at its start and at each block step, keeps both bits. -/
theorem stickyBitsSetAndCleared : Obligations.StickyBitsSetAndCleared := by
  intro s t h
  have heffect := step_effect h
  have hstatus : s.status = { s with agenda := s.agenda.tail }.status := rfl
  rw [hstatus]
  generalize { s with agenda := s.agenda.tail } = r at heffect
  generalize s.agenda.head? = e at heffect
  cases heffect with
  | read | reset | clearStatus => exact ⟨rfl, rfl⟩
  | ignoredWrite v hoff => rcases hoff with rfl | rfl <;> simp
  | @frozenWrite off v hoff busy =>
    have hne : off ≠ 0x04 := by rintro rfl; simp at hoff
    simp [hne, hoff, busy]
  | @parameterWrite off _ _ _ _ v hoff idle =>
    have hne : off ≠ 0x04 ∧ off ≠ 0x00 := by constructor <;> (rintro rfl; simp at hoff)
    simp [hne, idle]
  | illegalWord idle illegal => simp [idle, illegal]
  | @accepts w i idle legal =>
    rw [(resumes_startOf w r).frame]
    simp [idle, legal]
  | idleTurn he idle => rcases he with rfl | rfl <;> exact ⟨rfl, rfl⟩
  | blockTurn he busy running moved =>
    rw [moved.frame]
    rcases he with rfl | rfl <;> exact ⟨rfl, rfl⟩

/-- Settles O5: the turn and the access by `step_of_nil` and `step_of_cons`, each as `exec` of the command decoded. -/
theorem stepRunsDecodedCommand : Obligations.StepRunsDecodedCommand := by
  intro s i rest
  refine ⟨fun w hagenda hidle hd => ?_, fun hagenda hbusy hd => ?_, fun hagenda hbusy hd => ?_,
    fun hagenda hidle => ?_, fun hagenda hidle => ?_⟩
  · rw [step_of_cons hagenda]
    simp [runEvent, hostWrite, accessRefusal_of_aligned, acceptWord, hidle, hd]
  · rw [step_of_cons hagenda]
    exact blockTurn_of_busy hbusy hd
  · rw [step_of_nil hagenda, blockTurn_of_busy hbusy hd]
  · rw [step_of_cons hagenda]
    exact blockTurn_of_idle hidle
  · rw [step_of_nil hagenda, blockTurn_of_idle hidle]

/-! ### The register window -/

/-- Settles O37: the register of each of the eight words of the window. -/
theorem hostReadReturnsRegister : Obligations.HostReadReturnsRegister := by
  intro s off rest hagenda hoff
  have hwords : ∀ o ∈ [0x00, 0x04, 0x08, 0x0C, 0x10, 0x14, 0x18, 0x1C], o < 32 ∧ o % 4 = 0 := by decide
  obtain ⟨hin, haligned⟩ := hwords off hoff
  rw [step_of_cons hagenda]
  simp only [runEvent, hostRead, accessRefusal_of_aligned hin haligned]
  simp only [List.mem_cons, List.not_mem_nil, or_false] at hoff
  rcases hoff with rfl | rfl | rfl | rfl | rfl | rfl | rfl | rfl <;> rfl

theorem Status.word_reset : Status.reset.word = 0 := by decide

/-- A bit that a 1 clears, as a case split (rule R20). -/
theorem and_not_eq_ite (b c : Bool) : (b && !c) = if c then false else b := by
  cases c <;> simp

/-- Settles O38: the layout is read off each of the 384 values of STATUS; a write of 1 clears. -/
theorem statusFieldsAndClearing : Obligations.StatusFieldsAndClearing := by
  refine ⟨fun st => ?_, Status.word_reset, fun s v rest hagenda => ?_⟩
  · obtain ⟨busy, done, illcmd, wbusy, short, result, hascode⟩ := st
    revert busy done illcmd wbusy short hascode
    cases result <;> decide
  · rw [step_of_cons hagenda]
    simp only [runEvent, hostWrite, accessRefusal_of_aligned (off := 4) (by omega) (by omega)]
    simp only [Status.writeOneToClear, and_not_eq_ite]

/-- Two halves make a double word (rules R29, R30). -/
theorem toNat_append_halves (hi lo : Word) :
    ((hi ++ lo).setWidth 64 : Size).toNat = hi.toNat * 2 ^ 32 + lo.toNat := by
  rw [BitVec.toNat_setWidth, BitVec.toNat_append, ← Nat.shiftLeft_add_eq_or_of_lt lo.isLt, Nat.shiftLeft_eq,
    Nat.mod_eq_of_lt]
  omega

/-- Settles O40: the halves side by side, and the parts of the amount. -/
theorem wideRegistersFromHalves : Obligations.WideRegistersFromHalves := fun s =>
  ⟨toNat_append_halves .., toNat_append_halves .., s.bo_toNat, s.bits_eq⟩

theorem accessRefusal_of_outside {width off : Nat} (h : 0x20 ≤ off) :
    accessRefusal width off = some .outsideWindow := if_pos h

theorem accessRefusal_of_shape {width off : Nat} (h : off < 0x20) (hs : width ≠ 4 ∨ off % 4 ≠ 0) :
    accessRefusal width off = some .accessShape := by
  have hin : ¬ Config.windowBytes ≤ off := Nat.not_le_of_lt h
  rw [accessRefusal, if_neg hin, if_pos hs]

/-- A refused access is a refused step. -/
theorem step_of_accessRefusal {s : State} {width off : Nat} {v : Word} {e : Event} {rest : List Event} {r : Refusal}
    (hagenda : s.agenda = e :: rest) (he : e = .read width off ∨ e = .write width off v)
    (hr : accessRefusal width off = some r) : step s = .refused r := by
  rw [step_of_cons hagenda]
  rcases he with rfl | rfl
  · simp only [runEvent, hostRead, hr]
  · simp only [runEvent, hostWrite, hr]

theorem windowOffset_of_inside {off : Nat} (h : off < 32) : windowOffset (Config.bwBase + off) = some off := by
  rw [windowOffset, if_pos ⟨Nat.le_add_right .., Nat.add_lt_add_left h _⟩, Nat.add_sub_cancel_left]

theorem windowOffset_of_outside {addr : Nat} (h : addr < Config.bwBase ∨ Config.bwBase + 32 ≤ addr) :
    windowOffset addr = none := by
  rw [windowOffset, if_neg]
  show ¬ (Config.bwBase ≤ addr ∧ addr < Config.bwBase + 32)
  omega

/-- Settles O43: by the two reasons of `accessRefusal` and the range of `windowOffset`. -/
theorem otherAccessesRefused : Obligations.OtherAccessesRefused := by
  refine ⟨fun s width off v e rest hagenda he => ⟨fun hout => ?_, fun hin hshape => ?_⟩, fun addr width v => ⟨?_, ?_⟩⟩
  · exact step_of_accessRefusal hagenda he (accessRefusal_of_outside hout)
  · exact step_of_accessRefusal hagenda he (accessRefusal_of_shape hin hshape)
  · rintro off hoff rfl
    simp [memRead, memWrite, windowOffset_of_inside hoff]
  · intro hout
    simp [memRead, memWrite, windowOffset_of_outside hout]

/-! ### Reset -/

/-- Every register reads 0 where the fields of the window are at their reset values (rules R17, R38). -/
theorem State.register_resetBlock (s : State) (off : Nat) : s.resetBlock.register off = 0 := by
  unfold State.register
  split
  case h_2 => exact Status.word_reset
  all_goals rfl

/-- Settles O44: a reset event is `resetBlock`, and the state after power-on is one that it leaves. -/
theorem resetRestoresBlock : Obligations.ResetRestoresBlock := by
  refine ⟨fun s rest hagenda => ⟨_, step_of_cons hagenda, State.register_resetBlock _, ?_⟩,
    State.reset.register_resetBlock, ?_⟩
  · exact ⟨rfl, rfl, rfl, rfl, rfl, rfl, rfl, rfl, rfl, rfl, rfl, rfl, rfl, rfl⟩
  · exact ⟨rfl, rfl, rfl, rfl, rfl, rfl, rfl⟩

end Sys2Proof.Machine

/-! Held commands, refused launches, and what the host's accesses do: its writes by offset, the pseudo-instructions and
the lines of `wait`. -/

namespace Sys2Proof.Machine

/-! ### A silent port (rules R54, R170) -/

/-- A transaction needs an answer of its port. -/
theorem State.Transacts.not_portSilent {s u : State} {tr : Transaction} (h : s.Transacts tr u)
    (named : s.transaction = some tr) : ¬ s.portSilent := by
  rw [State.portSilent, named]
  cases h with
  | inByte h | inEof h | inErr h | opByte h | opEof h | opErr h | rewindOk h | rewindErr h | outOk h | outErr h =>
    exact List.ne_nil_of_mem (h ▸ List.mem_cons_self)

/-- Settles O34: in a phase of its own the command has a block step, and one that moved would need an answer. -/
theorem silentPortHoldsCommand : Obligations.SilentPortHoldsCommand := by
  intro i s hbusy hused hsilent
  obtain ⟨t, ht⟩ := blockOf_next_of_used hused
  have hexec : exec i s = .next t := (exec_of_busy hbusy).trans ht
  cases exec_blockStep hbusy hexec with
  | held => exact hexec
  | moves named transacts => exact absurd hsilent (transacts.not_portSilent named)

/-! ### A launch over aliased ports (rule R62) -/

/-- Settles O12: every command is a `runCommand`, which asks for distinct ports before it accepts. -/
theorem aliasedLaunchRefused : Obligations.AliasedLaunchRefused := fun i s hidle haliased => by
  rw [exec_eq_runCommand, runCommand_aliased hidle haliased]

/-! ### Host writes by offset (rule R47) -/

section
variable {s : State} {off : Nat} {v w : Word} {rest : List Event}

theorem acceptWord_of_busy (h : s.status.busy = true) : acceptWord w s = .next s.writeWhileBusy := if_pos h

theorem acceptWord_of_illegal (h : s.status.busy = false) (hd : decode w = none) :
    acceptWord w s = .next s.illegalCommand := by
  simp only [acceptWord, h, hd, Bool.false_eq_true, if_false]

theorem acceptWord_of_legal {i : Instr} (h : s.status.busy = false) (hd : decode w = some i) :
    acceptWord w s = exec i s := by
  simp only [acceptWord, h, hd, Bool.false_eq_true, if_false]

theorem step_of_cmdWrite (h : s.agenda = .write 4 0x00 w :: rest) :
    step s = acceptWord w { s with agenda := rest } :=
  step_of_cons h

theorem step_of_parameterWrite (h : s.agenda = .write 4 off v :: rest) (hoff : off ∈ [0x0C, 0x10, 0x14, 0x18]) :
    step s = .next ({ s with agenda := rest }.writeParameter off v) := by
  rw [step_of_cons h]
  simp only [List.mem_cons, List.not_mem_nil, or_false] at hoff
  rcases hoff with rfl | rfl | rfl | rfl <;> rfl

end

/-- Settles O39: CMD by what `acceptWord` does with the word, the parameter registers by `writeParameter`. -/
theorem hostWriteByOffset : Obligations.HostWriteByOffset := by
  intro s off v rest hagenda s' busy
  refine ⟨?cmd, ?status, ?errcode, ?shamtLo, ?shamtHi, ?lenLo, ?lenHi, ?unused⟩ <;> rintro rfl
  case cmd =>
    rw [step_of_cmdWrite hagenda]
    cases hbusy : s.status.busy with
    | true => exact acceptWord_of_busy hbusy
    | false =>
      cases hd : decode v with
      | none => exact acceptWord_of_illegal hbusy hd
      | some i => exact acceptWord_of_legal hbusy hd
  case status | errcode | unused => exact step_of_cons hagenda
  case shamtLo | shamtHi | lenLo | lenHi => exact step_of_parameterWrite hagenda (by simp)

/-! ### The pseudo-instructions (rule R78) -/

theorem stepN_of_step {n : Nat} {s t : State} (h : step s = .next t) : stepN (n + 1) s = stepN n t := by
  rw [stepN, h]

/-- A run is one run after another. -/
theorem stepN_add {m n : Nat} {s t : State} (h : stepN m s = .next t) : stepN (m + n) s = stepN n t := by
  induction m generalizing s with
  | zero => cases h; rw [Nat.zero_add]
  | succ m ih =>
    rw [stepN] at h
    cases hs : step s with
    | next s' => rw [hs] at h; rw [Nat.add_right_comm, stepN_of_step hs, ih h]
    | fault | refused => rw [hs] at h; cases h

/-- The two words that `setamt` and `setlen` write are the halves of the number (rules R29, R30). -/
theorem toNat_halves (n : Size) :
    ((n >>> 32).setWidth 32 : Word).toNat * 2 ^ 32 + (n.setWidth 32 : Word).toNat = n.toNat := by
  rw [BitVec.toNat_setWidth, BitVec.toNat_setWidth, BitVec.toNat_ushiftRight, Nat.shiftRight_eq_div_pow]
  omega

theorem append_halves (n : Size) : (((n >>> 32).setWidth 32 : Word) ++ (n.setWidth 32 : Word)).setWidth 64 = n :=
  BitVec.eq_of_toNat_eq ((toNat_append_halves ..).trans (toNat_halves n))

section
variable {s : State} {n len : Size} {v : Word} {rest : List Event} (hidle : s.status.busy = false)
include hidle

theorem step_of_shamtLoWrite (h : s.agenda = hostWr .shamtLo v :: rest) :
    step s = .next { s with agenda := rest, shamtLo := v } := by
  simp only [step_of_parameterWrite h (by decide), State.writeParameter, registerOffset, hidle, Bool.false_eq_true,
    if_false]

theorem step_of_shamtHiWrite (h : s.agenda = hostWr .shamtHi v :: rest) :
    step s = .next { s with agenda := rest, shamtHi := v } := by
  simp only [step_of_parameterWrite h (by decide), State.writeParameter, registerOffset, hidle, Bool.false_eq_true,
    if_false]

theorem step_of_lenLoWrite (h : s.agenda = hostWr .lenLo v :: rest) :
    step s = .next { s with agenda := rest, lenLo := v } := by
  simp only [step_of_parameterWrite h (by decide), State.writeParameter, registerOffset, hidle, Bool.false_eq_true,
    if_false]

theorem step_of_lenHiWrite (h : s.agenda = hostWr .lenHi v :: rest) :
    step s = .next { s with agenda := rest, lenHi := v } := by
  simp only [step_of_parameterWrite h (by decide), State.writeParameter, registerOffset, hidle, Bool.false_eq_true,
    if_false]

theorem stepN_hostSetAmount (h : s.agenda = hostSetAmount n ++ rest) :
    stepN 2 s = .next
      { s with agenda := rest, shamtLo := n.setWidth 32, shamtHi := (n >>> 32).setWidth 32 } :=
  (stepN_of_step (step_of_shamtLoWrite hidle h)).trans (stepN_of_step (step_of_shamtHiWrite hidle rfl))

theorem stepN_hostSetLength (h : s.agenda = hostSetLength len ++ rest) :
    stepN 2 s = .next { s with agenda := rest, lenLo := len.setWidth 32, lenHi := (len >>> 32).setWidth 32 } :=
  (stepN_of_step (step_of_lenLoWrite hidle h)).trans (stepN_of_step (step_of_lenHiWrite hidle rfl))

/-- The four writes that `lshift` and `rshift` begin with. -/
theorem stepN_hostSetParameters (h : s.agenda = hostSetAmount n ++ (hostSetLength len ++ rest)) :
    stepN 4 s = .next
      { s with
        agenda := rest
        shamtLo := n.setWidth 32, shamtHi := (n >>> 32).setWidth 32
        lenLo := len.setWidth 32, lenHi := (len >>> 32).setWidth 32 } :=
  (stepN_add (n := 2) (stepN_hostSetAmount hidle h)).trans (stepN_hostSetLength hidle rfl)

end

/-- Settles O41: `setamt` and `setlen` are two parameter writes each, `lshift` and `rshift` both of them and then the
word of LSH or RSH. -/
theorem pseudoInstructionsLoadParameters : Obligations.PseudoInstructionsLoadParameters := by
  intro s n len rest hidle
  refine ⟨fun h => ⟨_, _, stepN_hostSetAmount hidle h, toNat_halves n⟩,
    fun h => ⟨_, _, stepN_hostSetLength hidle h, toNat_halves len⟩, fun w h => ?_⟩
  have hagenda : s.agenda = hostSetAmount n ++ (hostSetLength len ++ (.write 4 0x00 w :: rest)) := by
    have hlsh : encode (.lsh 0 0) = 0x00000004 := by decide
    have hrsh : encode (.rsh 0 0) = 0x00000005 := by decide
    rcases h with ⟨h, rfl⟩ | ⟨h, rfl⟩
    · rw [h, ← hlsh]; rfl
    · rw [h, ← hrsh]; rfl
  exact ⟨_, stepN_hostSetParameters hidle hagenda, append_halves n, append_halves len, rfl⟩

/-! ### `wait` (rules R77, R78) -/

theorem hostLineStep_of_rd {program : List HostLine} {h : HostState} {s : State} {r : Register} {x : Nat}
    (hline : program[h.line]? = some (.rd r x)) :
    hostLineStep program h s =
      some ({ line := h.line + 1, vars := (x, s.register (registerOffset r)) :: h.vars }, runEvent (hostRd r) s) := by
  simp only [hostLineStep, hline]

theorem hostLineStep_of_bnz {program : List HostLine} {h : HostState} {s : State} {x label : Nat} {mask v : Word}
    (hline : program[h.line]? = some (.bnz x mask label)) (hvalue : h.value x = some v) :
    hostLineStep program h s =
      some ({ h with line := if v &&& mask = 0 then h.line + 1 else label }, .next s) := by
  simp only [hostLineStep, hline, hvalue, Option.map_some]

/-- The mask of `wait` picks BUSY out of STATUS (rules R20, R21). -/
theorem Status.word_and_one_eq_zero (st : Status) : st.word &&& 0x1 = 0 ↔ st.busy = false := by
  obtain ⟨hbusy, -⟩ := statusFieldsAndClearing.1 st
  change st.word &&& 1#32 = 0#32 ↔ st.busy = false
  rw [BitVec.and_one_eq_setWidth_ofBool_getLsbD, hbusy]
  cases st.busy <;> decide

theorem hostWait_lines {program rest : List HostLine} {n x : Nat} (h : program.drop n = hostWait n x ++ rest) :
    program[n]? = some (.rd .status x) ∧ program[n + 1]? = some (.bnz x 0x1 n) := by
  have hlines (k : Nat) : program[n + k]? = (hostWait n x ++ rest)[k]? := by rw [← h, List.getElem?_drop]
  exact ⟨hlines 0, hlines 1⟩

/-- Settles O42: the first line of `wait` gives the variable the STATUS word, the second tests its bit 0. -/
theorem hostWaitPolls : Obligations.HostWaitPolls := by
  rintro program rest n x h s t hdrop rfl
  obtain ⟨hrd, hbnz⟩ := hostWait_lines hdrop
  have hvalue : HostState.value { line := h.line + 1, vars := (x, s.status.word) :: h.vars } x = some s.status.word :=
    List.lookup_cons_self
  refine ⟨_, _, hostLineStep_of_rd hrd, hostLineStep_of_bnz hbnz hvalue, ?_, hvalue⟩
  cases hbusy : s.status.busy with
  | true => exact if_neg fun h0 => by simp [s.status.word_and_one_eq_zero.mp h0] at hbusy
  | false => exact if_pos (s.status.word_and_one_eq_zero.mpr hbusy)

end Sys2Proof.Machine

/-! The encoding of the commands: decoding and encoding are inverse to each other, and the words that `decode` refuses
(rules R63 to R76). -/

namespace Sys2Proof.Machine

/-! ### Decoding a command's word (rules R63 to R67, R70) -/

theorem fieldsOfWord_encode (i : Instr) : fieldsOfWord (encode i) = fieldsOfInstr i :=
  fieldsOfWord_wordOfFields _

/-- Settles O1: the fields of a command's word are the command's fields, and `decode` reads the command off them; the POL
field of a stream form is the code of its policy. -/
theorem decodeReadsEncoding : Obligations.DecodeReadsEncoding := by
  intro i
  have hfields := fieldsOfWord_encode i
  cases i with
  | orb | andb | xorb | not | lsh | rsh =>
    rw [decode, hfields]
    rfl
  | orf pol imm | andf pol imm | xorf pol imm =>
    rw [decode, hfields]
    exact congrArg (Option.map _) (policyOfCode_policyCode pol)

/-- Settles O2: `encode_of_decode`, field by field of the word. -/
theorem encodeRestoresWord : Obligations.EncodeRestoresWord := fun _ _ => encode_of_decode

/-- Settles O4: each word is the word of its command. -/
theorem writtenOutWordsDecode : Obligations.WrittenOutWordsDecode :=
  ⟨decodeReadsEncoding (.orb 0x0F 0), decodeReadsEncoding (.andb 0xA5 0), decodeReadsEncoding (.xorb 0x5A 7),
    decodeReadsEncoding (.not 0xFF 0), decodeReadsEncoding (.lsh 0 0), decodeReadsEncoding (.rsh 0 0),
    decodeReadsEncoding (.orf .zeroFill 0), decodeReadsEncoding (.andf .truncate 0),
    decodeReadsEncoding (.xorf .oneFill 0xFF)⟩

/-! ### Illegal words (rule R72) -/

section
variable {f : Fields}

theorem reservedZero_eq_false_iff : f.reservedZero = false ↔ f.rsv16 ≠ 0 ∨ f.rsv7 ≠ 0 := by
  simp [Fields.reservedZero, imp_iff_not_or]

theorem funcDefined_eq_false_iff : f.funcDefined = false ↔ f.func = 0b110 ∨ f.func = 0b111 := by
  simp [Fields.funcDefined, or_iff_not_imp_left]

theorem sourceAllowed_eq_false_iff :
    f.sourceAllowed = false ↔ f.src = 1 ∧ (f.func = 0b011 ∨ f.func = 0b100 ∨ f.func = 0b101) := by
  simp only [Fields.sourceAllowed, Bool.not_eq_false', Bool.and_eq_true, Bool.or_eq_true, beq_iff_eq, or_assoc]

theorem policyDefined_eq_false_iff :
    f.policyDefined = false ↔ f.src = 1 ∧ (f.func = 0b000 ∨ f.func = 0b001 ∨ f.func = 0b010)
      ∧ (f.pol = 0b101 ∨ f.pol = 0b110 ∨ f.pol = 0b111) := by
  simp only [Fields.policyDefined, Bool.not_eq_false', Bool.and_eq_true, Bool.or_eq_true, beq_iff_eq, or_assoc,
    and_assoc]

/-- Fields are ill-formed by one of the clauses (a) to (d) of rule R72. -/
theorem wellFormed_eq_false_iff :
    f.wellFormed = false ↔ f.reservedZero = false ∨ f.funcDefined = false ∨ f.sourceAllowed = false
      ∨ f.policyDefined = false := by
  simp only [Fields.wellFormed, Bool.and_eq_false_iff, or_assoc]

end

/-- The reserved POL codes (rule R66). -/
theorem policyOfCode_eq_none_iff (p : BitVec 3) : policyOfCode p = none ↔ p = 0b101 ∨ p = 0b110 ∨ p = 0b111 := by
  decide +revert

/-- `decode` refuses the words whose fields are not well-formed, and no others: by SRC and FUNC, the cases of `decode`. -/
theorem decode_eq_none_iff (w : Word) : decode w = none ↔ (fieldsOfWord w).wellFormed = false := by
  rw [wellFormed_eq_false_iff, reservedZero_eq_false_iff, funcDefined_eq_false_iff, sourceAllowed_eq_false_iff,
    policyDefined_eq_false_iff, decode]
  generalize fieldsOfWord w = f
  obtain ⟨rsv16, imm8, rsv7, pol, src, func⟩ := f
  by_cases hrsv : rsv16 ≠ 0 ∨ rsv7 ≠ 0
  · exact iff_of_true (if_pos hrsv) (.inl hrsv)
  · simp only [hrsv, if_false, false_or]
    have hsrc : src = 0 ∨ src = 1 := by decide +revert
    have hfunc : func = 0 ∨ func = 1 ∨ func = 2 ∨ func = 3 ∨ func = 4 ∨ func = 5 ∨ func = 6 ∨ func = 7 := by
      decide +revert
    rcases hsrc with rfl | rfl
    · rcases hfunc with rfl | rfl | rfl | rfl | rfl | rfl | rfl | rfl <;> simp
    · rcases hfunc with rfl | rfl | rfl | rfl | rfl | rfl | rfl | rfl <;> simp [policyOfCode_eq_none_iff]

/-- A field of one bit. -/
theorem extractLsb'_one (w : Word) (k : Nat) : w.extractLsb' k 1 = BitVec.ofBool (w.getLsbD k) := by
  apply BitVec.eq_of_getLsbD_eq
  intro j hj
  obtain rfl : j = 0 := by omega
  simp

theorem extractLsb'_one_eq_one_iff (w : Word) (k : Nat) : w.extractLsb' k 1 = 1 ↔ w.getLsbD k = true := by
  rw [extractLsb'_one]
  cases w.getLsbD k <;> decide

theorem extractLsb'_one_ne_zero_iff (w : Word) (k : Nat) : w.extractLsb' k 1 ≠ 0 ↔ w.getLsbD k = true := by
  rw [extractLsb'_one]
  cases w.getLsbD k <;> decide

/-- Settles O3: `decode` refuses by the four checks of rule R72, and the write of a refused word is an
`illegalCommand`. -/
theorem illegalWordsSetIllcmdOnly : Obligations.IllegalWordsSetIllcmdOnly := by
  refine ⟨fun w => ?_, fun s w rest hagenda hidle hnone => ?_⟩
  · rw [decode_eq_none_iff, wellFormed_eq_false_iff, reservedZero_eq_false_iff, funcDefined_eq_false_iff,
      sourceAllowed_eq_false_iff, policyDefined_eq_false_iff]
    simp only [fieldsOfWord, extractLsb'_one_eq_one_iff, extractLsb'_one_ne_zero_iff]
  · exact (step_of_cmdWrite hagenda).trans (acceptWord_of_illegal hidle hnone)

end Sys2Proof.Machine

/-! The fields that a command ignores (rule R74): the word of a command reaches CMD, which no step of a command reads. -/

namespace Sys2Proof.Machine

/-! ### Changes of the state that do not see CMD -/

/-- `s` with `c` in CMD. -/
def State.withCmd (c : Word) (s : State) : State := { s with cmd := c }

theorem State.withCmd_phase (c : Word) (s : State) : (s.withCmd c).phase = s.phase := rfl

/-- `f` neither reads nor writes CMD. -/
def CmdBlind (f : State → State) : Prop := ∀ (c : Word) (s : State), f (s.withCmd c) = (f s).withCmd c

section
variable {f g onEof onOk : State → State} {onByte : Byte → State → State}

theorem CmdBlind.comp (hf : CmdBlind f) (hg : CmdBlind g) : CmdBlind (f ∘ g) := fun c s => by
  rw [Function.comp_apply, hg, hf, Function.comp_apply]

theorem CmdBlind.ite {p : State → Prop} [DecidablePred p] (hp : ∀ c s, p (s.withCmd c) ↔ p s) (hf : CmdBlind f)
    (hg : CmdBlind g) : CmdBlind fun s => if p s then f s else g s := fun c s => by
  simp only [hp, hf c s, hg c s, apply_ite (State.withCmd c)]

theorem CmdBlind.afterInRead (hbyte : ∀ v, CmdBlind (onByte v)) (heof : CmdBlind onEof) :
    CmdBlind (State.afterInRead onByte onEof) := by
  intro c s
  rcases s.afterInRead_cases onByte onEof with ⟨h, e⟩ | ⟨v, rest, h, e⟩ | ⟨rest, h, e⟩ | ⟨code, rest, h, e⟩ <;> rw [e]
  · exact State.afterInRead_nil h
  · rw [← hbyte]; exact State.afterInRead_byte h
  · rw [← heof]; exact State.afterInRead_eof h
  · exact State.afterInRead_err h

theorem CmdBlind.afterOpRead (hbyte : ∀ v, CmdBlind (onByte v)) (heof : CmdBlind onEof) :
    CmdBlind (State.afterOpRead onByte onEof) := by
  intro c s
  rcases s.afterOpRead_cases onByte onEof with ⟨h, e⟩ | ⟨v, rest, h, e⟩ | ⟨rest, h, e⟩ | ⟨code, rest, h, e⟩ <;> rw [e]
  · exact State.afterOpRead_nil h
  · rw [← hbyte]; exact State.afterOpRead_byte h
  · rw [← heof]; exact State.afterOpRead_eof h
  · exact State.afterOpRead_err h

theorem CmdBlind.afterOpRewind (hok : CmdBlind onOk) : CmdBlind (State.afterOpRewind onOk) := by
  intro c s
  rcases s.afterOpRewind_cases onOk with ⟨h, e⟩ | ⟨rest, h, e⟩ | ⟨code, rest, h, e⟩ <;> rw [e]
  · exact State.afterOpRewind_nil h
  · rw [← hok]; exact State.afterOpRewind_ok h
  · exact State.afterOpRewind_err h

theorem CmdBlind.afterOutWrite (v : Byte) (hok : CmdBlind onOk) : CmdBlind (State.afterOutWrite v onOk) := by
  intro c s
  rcases State.afterOutWrite_cases v s onOk with ⟨h, e⟩ | ⟨rest, h, e⟩ | ⟨code, rest, h, e⟩ <;> rw [e]
  · exact State.afterOutWrite_nil h
  · rw [← hok]; exact State.afterOutWrite_ok h
  · exact State.afterOutWrite_err h

end

/-! ### No command sees CMD -/

theorem finish_cmdBlind (tag : ResultTag) (code : Option Word) : CmdBlind (State.finish tag code) := fun _ _ => rfl

theorem afterSkip_cmdBlind : CmdBlind afterSkip := .ite (fun _ _ => .rfl) (fun _ _ => rfl) fun _ _ => rfl

theorem lshNext_cmdBlind : CmdBlind lshNext := .ite (fun _ _ => .rfl) (fun _ _ => rfl) fun _ _ => rfl

theorem afterLeadingZeros_cmdBlind : CmdBlind afterLeadingZeros :=
  .ite (fun _ _ => .rfl) (fun _ _ => rfl) fun _ _ => rfl

theorem rshNext_cmdBlind : CmdBlind rshNext :=
  .ite (fun _ _ => .rfl) (fun _ _ => rfl) <| .ite (fun _ _ => .rfl) (fun _ _ => rfl) (finish_cmdBlind _ _)

theorem startLsh_cmdBlind : CmdBlind startLsh :=
  .ite (fun _ _ => .rfl) (finish_cmdBlind _ _) <|
    .ite (fun _ _ => .rfl) (afterSkip_cmdBlind.comp (g := fun s => { s with cnt := 0 }) fun _ _ => rfl) fun _ _ => rfl

theorem startRsh_cmdBlind : CmdBlind startRsh :=
  .ite (fun _ _ => .rfl) (finish_cmdBlind _ _) <|
    .ite (fun _ _ => .rfl) (afterLeadingZeros_cmdBlind.comp (g := fun s => { s with cnt := 0 }) fun _ _ => rfl)
      fun _ _ => rfl

theorem startOf_cmdBlind (i : Instr) : CmdBlind (startOf i) := by
  cases i with
  | orb | andb | xorb | not | orf | andf | xorf => exact fun _ _ => rfl
  | lsh => exact startLsh_cmdBlind
  | rsh => exact startRsh_cmdBlind

/-- A counted phase of a shift, which goes on as `last` says after its last byte. -/
theorem CmdBlind.counted {last : State → State} (hlast : CmdBlind last) :
    CmdBlind fun s =>
      let u := { s with cnt := countDown s.cnt }
      if u.cnt = 0 then last u else u :=
  .ite (p := fun s => countDown s.cnt = 0) (fun _ _ => .rfl)
    (hlast.comp (g := fun s => { s with cnt := countDown s.cnt }) fun _ _ => rfl) fun _ _ => rfl

theorem fileInput_cmdBlind (op : Byte → Byte → Byte) (pol : Policy) (a : Byte) : CmdBlind (fileInput op pol a) := by
  intro c s
  simp only [fileInput, State.withCmd]
  split <;> rfl

theorem operandEof_cmdBlind (op : Byte → Byte → Byte) (pol : Policy) : CmdBlind (operandEof op pol) := by
  cases pol with
  | loop => exact .ite (fun _ _ => .rfl) (finish_cmdBlind _ _) fun _ _ => rfl
  | error | truncate | zeroFill | oneFill => exact fun _ _ => rfl

/-- A block step that does not see CMD: with another word in CMD it does the same. -/
def StepCmdBlind (block : State → Outcome) : Prop :=
  ∀ (c : Word) (s : State), block (s.withCmd c) = mapNext (State.withCmd c) (block s)

theorem CmdBlind.next {f : State → State} (hf : CmdBlind f) : StepCmdBlind fun s => .next (f s) := fun c s =>
  congrArg Host.Outcome.next (hf c s)

theorem byteStep_cmdBlind (op : Byte → Byte → Byte) (k : Byte) : StepCmdBlind (byteStep op k) := by
  intro c s
  simp only [byteStep, State.withCmd_phase]
  cases s.phase with
  | bIn => exact (CmdBlind.afterInRead (fun _ _ _ => rfl) (finish_cmdBlind _ _)).next c s
  | bOut => exact (CmdBlind.afterOutWrite s.hold fun _ _ => rfl).next c s
  | _ => rfl

theorem fileStep_cmdBlind (op : Byte → Byte → Byte) (pol : Policy) : StepCmdBlind (fileStep op pol) := by
  intro c s
  simp only [fileStep, State.withCmd_phase]
  cases s.phase with
  | fIn => exact (CmdBlind.afterInRead (fileInput_cmdBlind op pol) (finish_cmdBlind _ _)).next c s
  | fOp => exact (CmdBlind.afterOpRead (fun _ _ _ => rfl) (operandEof_cmdBlind op pol)).next c s
  | fRew =>
    by_cases hpol : pol = .loop
    · simpa only [hpol, if_true] using (CmdBlind.afterOpRewind fun _ _ => rfl).next c s
    · simp only [hpol, if_false, mapNext]
  | fOut => exact (CmdBlind.afterOutWrite s.hold fun _ _ => rfl).next c s
  | _ => rfl

theorem lshStep_cmdBlind : StepCmdBlind lshStep := by
  intro c s
  simp only [lshStep, State.withCmd_phase]
  cases s.phase with
  | lsSkip => exact (CmdBlind.afterInRead (fun _ => afterSkip_cmdBlind.counted) fun _ _ => rfl).next c s
  | lsLoad =>
    have hload (x : Byte) := lshNext_cmdBlind.comp (g := fun t => { t with carry := x, cnt := t.len - t.bo - 1 })
      fun _ _ => rfl
    exact (CmdBlind.afterInRead hload fun _ _ => rfl).next c s
  | lsIn => exact (CmdBlind.afterInRead (fun _ _ _ => rfl) fun _ _ => rfl).next c s
  | lsOut => exact (CmdBlind.afterOutWrite s.hold lshNext_cmdBlind).next c s
  | lsTail =>
    exact (CmdBlind.afterOutWrite (funnel s.carry 0x00 (8 - s.bits))
      (.ite (fun _ _ => .rfl) (fun _ _ => rfl) fun _ _ => rfl)).next c s
  | lsZero => exact (CmdBlind.afterOutWrite 0x00 (finish_cmdBlind _ _).counted).next c s
  | _ => rfl

theorem rshStep_cmdBlind : StepCmdBlind rshStep := by
  intro c s
  simp only [rshStep, State.withCmd_phase]
  cases s.phase with
  | rsZero => exact (CmdBlind.afterOutWrite 0x00 afterLeadingZeros_cmdBlind.counted).next c s
  | rsIn => exact (CmdBlind.afterInRead (fun _ _ _ => rfl) fun _ _ => rfl).next c s
  | rsOut => exact (CmdBlind.afterOutWrite s.hold rshNext_cmdBlind).next c s
  | rsDrain => exact (CmdBlind.afterInRead (fun _ => (finish_cmdBlind _ _).counted) fun _ _ => rfl).next c s
  | _ => rfl

theorem blockOf_cmdBlind (i : Instr) : StepCmdBlind (blockOf i) := by
  cases i with
  | orb | andb | xorb | not => exact byteStep_cmdBlind _ _
  | lsh => exact lshStep_cmdBlind
  | rsh => exact rshStep_cmdBlind
  | orf | andf | xorf => exact fileStep_cmdBlind _ _

/-! ### Ignored fields (rule R74) -/

theorem startOf_clearIgnored (i : Instr) : startOf (clearIgnored i) = startOf i := by
  cases i <;> rfl

theorem blockOf_clearIgnored (i : Instr) : blockOf (clearIgnored i) = blockOf i := by
  cases i <;> rfl

theorem mapNext_withCmd_withCmd (c d : Word) (o : Outcome) :
    mapNext (State.withCmd d) (mapNext (State.withCmd c) o) = mapNext (State.withCmd d) o := by
  cases o <;> rfl

/-- With another word in CMD and other ignored fields, a command's step differs in the word that CMD then holds. -/
theorem exec_withCmd_of_clearIgnored {i j : Instr} (h : clearIgnored i = clearIgnored j) (s : State) (c d : Word) :
    mapNext (State.withCmd d) (exec j (s.withCmd c)) = mapNext (State.withCmd d) (exec i s) := by
  have hstart : startOf j = startOf i := by rw [← startOf_clearIgnored, ← h, startOf_clearIgnored]
  have hblock : blockOf j = blockOf i := by rw [← blockOf_clearIgnored, ← h, blockOf_clearIgnored]
  rw [exec_eq_runCommand, exec_eq_runCommand, hstart, hblock]
  cases hbusy : s.status.busy with
  | true =>
    rw [runCommand_busy hbusy, runCommand_busy (s := s.withCmd c) hbusy, blockOf_cmdBlind, mapNext_withCmd_withCmd]
  | false =>
    cases haliased : s.portsAliased with
    | true => rw [runCommand_aliased hbusy haliased, runCommand_aliased (s := s.withCmd c) hbusy haliased]
    | false =>
      rw [runCommand_idle hbusy haliased, runCommand_idle (s := s.withCmd c) hbusy haliased,
        show (s.withCmd c).accepted (encode j) = (s.accepted (encode i)).withCmd (encode j) from rfl, startOf_cmdBlind]
      rfl

/-- The start of a command leaves CMD. -/
theorem startOf_cmd (i : Instr) (s : State) : (startOf i s).cmd = s.cmd := by
  have h : startOf i s = (startOf i s).withCmd s.cmd := startOf_cmdBlind i s.cmd s
  rw [h]
  rfl

/-- Settles O6: no command reads CMD (`startOf_cmdBlind`, `blockOf_cmdBlind`), and acceptance writes the word there. -/
theorem ignoredFieldsHaveNoEffect : Obligations.IgnoredFieldsHaveNoEffect := by
  refine ⟨fun i j s c h => (exec_withCmd_of_clearIgnored h s c 0).symm, fun w i s t rest hagenda hidle hd h => ?_⟩
  obtain ⟨hstep, -⟩ := stepRunsDecodedCommand s i rest
  rw [hstep w hagenda hidle hd] at h
  rw [exec_accepts (s := { s with agenda := rest }) hd hidle h]
  exact startOf_cmd i _

end Sys2Proof.Machine

/-! Acceptance of the commands on an idle block (rule R71): the word in CMD and the first phase. -/

namespace Sys2Proof.Machine

/-! ### The word of a command (rules R63, R76) -/

/-- A legal word as a number: IMM8 at bit 8, POL at bit 4, SRC and FUNC below. -/
theorem wordOfFields_legalFields (k : Byte) (p : BitVec 3) (src : BitVec 1) (func : BitVec 3) :
    wordOfFields (legalFields k p src func)
      = k.setWidth 32 <<< 8 ||| p.setWidth 32 <<< 4 ||| (src ++ func).setWidth 32 := by
  apply BitVec.eq_of_getLsbD_eq
  intro j hj
  simp only [wordOfFields, legalFields, BitVec.getLsbD_append, BitVec.getLsbD_or, BitVec.getLsbD_shiftLeft,
    BitVec.getLsbD_setWidth]
  grind

/-! ### The start of an accepted command (rules R71, R80, R91, R125, R127) -/

section
variable {s : State} {i : Instr} {w : Word}

/-- With no whole-byte part an amount is never the whole stream or more (rule R119). -/
theorem State.not_len_le_bo (hlen : s.len ≠ 0) (hbo : s.bo = 0) : ¬ s.len ≤ s.bo := by
  rw [hbo]
  exact mt BitVec.le_zero_iff.mp hlen

theorem startLsh_accepted (hlen : s.len ≠ 0) :
    startLsh (s.accepted w) = if s.bo = 0 then s.launched w .lsLoad 0
      else s.launched w .lsSkip (BitVec.ofNat 64 (min s.bo.toNat s.len.toNat)) := by
  rw [startLsh, State.accepted_len, if_neg hlen, State.accepted_bo, ite_le_eq_ofNat_min]
  exact ite_congr rfl (fun hbo => if_neg (State.not_len_le_bo hlen hbo)) fun _ => rfl

theorem startRsh_accepted (hlen : s.len ≠ 0) :
    startRsh (s.accepted w) = if s.bo = 0 then s.launched w .rsIn s.len
      else s.launched w .rsZero (BitVec.ofNat 64 (min s.bo.toNat s.len.toNat)) := by
  rw [startRsh, State.accepted_len, if_neg hlen, State.accepted_bo, ite_le_eq_ofNat_min]
  refine ite_congr rfl (fun hbo => (if_neg (State.not_len_le_bo hlen hbo)).trans ?_) fun _ => rfl
  change s.launched w .rsIn (s.len - s.bo) = _
  rw [hbo]
  exact congrArg _ (BitVec.sub_zero _)

/-- On an idle block with distinct ports a command is accepted with its word and stands where its `start` leads. -/
theorem exec_of_idle (hidle : s.status.busy = false) (hports : s.portsAliased = false) (hw : encode i = w) :
    exec i s = .next (startOf i (s.accepted w)) := by
  rw [exec_eq_runCommand, runCommand_idle hidle hports, hw]

end

/-- Settles O7: `start_byte` only sets PHASE. -/
theorem byteFormsAccepted : Obligations.ByteFormsAccepted := by
  intro k p s hidle hports word
  have hword := wordOfFields_legalFields k p 0
  exact ⟨exec_of_idle hidle hports (hword 0), exec_of_idle hidle hports (hword 1), exec_of_idle hidle hports (hword 2),
    exec_of_idle hidle hports (hword 3)⟩

/-- Settles O8: `start_file` only sets PHASE. -/
theorem streamFormsAccepted : Obligations.StreamFormsAccepted := by
  intro pol k s hidle hports code word
  have hcode : (policyCode pol).setWidth 32 = code := by cases pol <;> rfl
  have hword (func : BitVec 3) :
      wordOfFields (legalFields k (policyCode pol) 1 func) = word ((1#1 ++ func).setWidth 32) := by
    rw [wordOfFields_legalFields, hcode]
    rfl
  exact ⟨exec_of_idle hidle hports (hword 0), exec_of_idle hidle hports (hword 1), exec_of_idle hidle hports (hword 2)⟩

/-- Settles O9: `start_lsh` by LEN and bo. -/
theorem lshAccepted : Obligations.LshAccepted := by
  intro k p s hidle hports hlen word
  have hword : encode (.lsh k p) = word := wordOfFields_legalFields k p 0 4
  rw [exec_of_idle hidle hports hword, ← apply_ite Host.Outcome.next]
  exact congrArg Host.Outcome.next (startLsh_accepted hlen)

/-- Settles O10: `start_rsh` by LEN and bo. -/
theorem rshAccepted : Obligations.RshAccepted := by
  intro k p s hidle hports hlen word
  have hword : encode (.rsh k p) = word := wordOfFields_legalFields k p 0 5
  rw [exec_of_idle hidle hports hword, ← apply_ite Host.Outcome.next]
  exact congrArg Host.Outcome.next (startRsh_accepted hlen)

end Sys2Proof.Machine

/-! A byte form on a whole stream (rules R80, R85, R86, R88). -/

namespace Sys2Proof.Machine

/-! ### A byte form, step by step (rule R80) -/

section
variable {s t : State} {i : Instr} {f : Byte → Byte} {w : Word} {n m pos : Nat} {h c x : Byte} {inp : InPort}
  {out : OutPort} {rest : List ReadAnswer} {oks : List Ack} {wr bs : List Byte}

theorem startOf_of_byteForm (hf : byteFormFunction i = some f) : startOf i = startByte := by
  cases i with
  | orb | andb | xorb | not => rfl
  | lsh | rsh | orf | andf | xorf => cases hf

/-- The block steps of a byte form are those of rule R80 over its function (rules R79, R81 to R84). -/
theorem State.Running.step_byteForm (hs : s.Running i) (hf : byteFormFunction i = some f) :
    ∃ op k, step s = byteStep op k s ∧ ∀ a, op a k = f a := by
  rw [hs.step_eq, exec_of_busy hs.busy]
  cases i with
  | orb k | andb k | xorb k => cases hf; exact ⟨_, k, rfl, fun _ => rfl⟩
  | not k => cases hf; exact ⟨_, k, rfl, fun _ => BitVec.xor_allOnes⟩
  | lsh | rsh | orf | andf | xorf => cases hf

theorem step_bIn_byte (hs : s.Running i) (hf : byteFormFunction i = some f) :
    step (s.stage .bIn n h c ⟨.byte x :: rest, pos⟩ out) = .next (s.stage .bOut n (f x) c ⟨rest, pos + 1⟩ out) := by
  obtain ⟨op, k, hstep, hop⟩ := hs.stage.step_byteForm hf
  rw [hstep, ← hop]
  rfl

theorem step_bIn_eof (hs : s.Running i) (hf : byteFormFunction i = some f) :
    step (s.stage .bIn n h c ⟨.eof :: rest, pos⟩ out)
      = .next ((s.stage .bIn n h c ⟨rest, pos⟩ out).finish .none none) := by
  obtain ⟨op, k, hstep, -⟩ := hs.stage.step_byteForm hf
  exact hstep

theorem step_bIn_err {code : Option Word} (hs : s.Running i) (hf : byteFormFunction i = some f) :
    step (s.stage .bIn n h c ⟨.err code :: rest, pos⟩ out)
      = .next ((s.stage .bIn n h c ⟨rest, pos⟩ out).finish .inputRead code) := by
  obtain ⟨op, k, hstep, -⟩ := hs.stage.step_byteForm hf
  exact hstep

theorem step_bOut_ok (hs : s.Running i) (hf : byteFormFunction i = some f) :
    step (s.stage .bOut n h c inp ⟨.ok :: oks, wr⟩) = .next (s.stage .bIn n h c inp ⟨oks, wr ++ [h]⟩) := by
  obtain ⟨op, k, hstep, -⟩ := hs.stage.step_byteForm hf
  exact hstep

/-! ### A byte form as a whole (rule R88) -/

/-- Each input byte takes two steps, and its transformed byte is appended; HOLD keeps the last one. -/
theorem runsTo_byteForm (hs : s.Running i) (hf : byteFormFunction i = some f)
    (hend : ∀ h, runsTo m (s.stage .bIn n h c ⟨rest, pos + bs.length⟩ ⟨oks, wr ++ bs.map f⟩) t) :
    runsTo (2 * bs.length + m) (s.stage .bIn n h c ⟨bytesThen bs rest, pos⟩ ⟨oksThen bs.length oks, wr⟩) t := by
  induction bs generalizing h pos wr with
  | nil => simpa [bytesThen, oksThen] using hend h
  | cons x xs ih =>
    have hsteps : 2 * (xs.length + 1) + m = 2 * xs.length + m + 1 + 1 := by omega
    rw [List.length_cons, hsteps, bytesThen_cons, oksThen_succ]
    refine runsTo_of_step (step_bIn_byte hs hf) (runsTo_of_step (step_bOut_ok hs hf) (ih fun h => ?_))
    simpa [Nat.add_assoc, Nat.add_comm 1] using hend h

/-- A byte form that is issued, transforms its bytes and ends as its last read of the input says. -/
theorem runsTo_issued_byteForm {last : ReadAnswer} {tag : ResultTag} {code : Option Word} (hready : s.readyToIssue w)
    (hd : decode w = some i) (hf : byteFormFunction i = some f)
    (hin : s.input.answers = bytesThen bs (last :: rest)) (hout : s.output.answers = oksThen bs.length oks)
    (hlast : ∀ {u : State} {h pos out}, u.Running i →
      step (u.stage .bIn 0 h 0 ⟨last :: rest, pos⟩ out)
        = .next ((u.stage .bIn 0 h 0 ⟨rest, pos⟩ out).finish tag code)) :
    runsTo (2 * bs.length + 2) s (s.ran w tag code ⟨rest, s.input.pos + bs.length⟩
      { s.operand with start := s.operand.pos } ⟨oks, s.output.written ++ bs.map f⟩) := by
  obtain ⟨-, hidle, hports⟩ := id hready
  have hissue : step s = .next (startByte ({ s with agenda := [] }.accepted w)) := by
    rw [step_of_readyToIssue hready hd, ← startOf_of_byteForm hf]
    exact exec_of_idle hidle hports (encode_of_decode hd)
  have hrun := State.running_accepted (s := s) hd
  refine runsTo_of_step hissue ?_
  have hstage : startByte ({ s with agenda := [] }.accepted w)
      = ({ s with agenda := [] }.accepted w).stage .bIn 0 0 0 ⟨bytesThen bs (last :: rest), s.input.pos⟩
        ⟨oksThen bs.length oks, s.output.written⟩ := by
    rw [← hin, ← hout]
    rfl
  rw [hstage]
  exact runsTo_byteForm hrun hf fun h => runsTo_of_step (hlast hrun) (runsTo_zero rfl)

end

/-- Settles O51: by induction on the input bytes (`runsTo_byteForm`), ended by the step at `Eof` or `Err`. -/
theorem byteFormTransformsStream : Obligations.ByteFormTransformsStream := by
  intro w i f s bs rest oks hready hd hf hout opd inp out
  exact ⟨fun hin => runsTo_issued_byteForm hready hd hf hin hout fun hu => step_bIn_eof hu hf,
    fun c hin => runsTo_issued_byteForm hready hd hf hin hout fun hu => step_bIn_err hu hf⟩

end Sys2Proof.Machine

/-! The byte operators, one step at a time: what each answer of a port does to a byte form, and the operand byte of a
stream form; the registers and ports that a command does not use; the byte forms that undo themselves (rules R79 to R90,
R95, R136). -/

namespace Sys2Proof.Machine

/-! ### The steps of the byte forms (rule R80) -/

section
variable {s : State} {i : Instr} {f : Byte → Byte} {op : Byte → Byte → Byte} {k : Byte}

theorem byteStep_bIn (hphase : s.phase = .bIn) :
    byteStep op k s
      = .next (s.afterInRead (fun a t => { t with hold := op a k, phase := .bOut }) (State.finish .none none)) := by
  rw [byteStep, hphase]

theorem byteStep_bOut (hphase : s.phase = .bOut) :
    byteStep op k s = .next (s.afterOutWrite s.hold fun t => { t with phase := .bIn }) := by
  rw [byteStep, hphase]

theorem byteStep_bIn_byte {a : Byte} {rest : List ReadAnswer} (hphase : s.phase = .bIn)
    (hin : s.input.answers = .byte a :: rest) :
    byteStep op k s
      = .next { s with phase := .bOut, hold := op a k, input := { answers := rest, pos := s.input.pos + 1 } } := by
  rw [byteStep_bIn hphase, State.afterInRead_byte hin]

theorem blockOf_of_byteForm (hf : byteFormFunction i = some f) : ∃ op k, blockOf i = byteStep op k := by
  cases i with
  | orb k | andb k | xorb k | not k => exact ⟨_, k, rfl⟩
  | lsh | rsh | orf | andf | xorf => cases hf

theorem exec_byteForm (hf : byteFormFunction i = some f) (hbusy : s.status.busy = true) :
    ∃ op k, exec i s = byteStep op k s := by
  obtain ⟨op, k, hblock⟩ := blockOf_of_byteForm hf
  exact ⟨op, k, by rw [exec_of_busy hbusy, hblock]⟩

/-- `finish` ends a command, and touches nothing that it does not record (rule R145). -/
theorem endsWith_finish (tag : ResultTag) (c : Option Word) (s : State) :
    endsWith (.next (s.finish tag c)) tag c s :=
  ⟨_, rfl, rfl⟩

end

/-- Settles O14: `byteStep_bIn_byte`, with the function of each command. -/
theorem byteFormsTransformInput : Obligations.ByteFormsTransformInput := by
  intro k a p s rest hbusy hphase hin t
  have hexec {i : Instr} {op : Byte → Byte → Byte} (hblock : blockOf i = byteStep op k) :
      exec i s = .next (t (op a k)) := by
    rw [exec_of_busy hbusy, hblock, byteStep_bIn_byte hphase hin]
  exact ⟨hexec (op := opOr) rfl, hexec (op := opAnd) rfl, hexec (op := opXor) rfl, hexec (op := opNot) rfl⟩

/-- Settles O15: both answers lead straight to `finish`. -/
theorem byteFormsEndWithInput : Obligations.ByteFormsEndWithInput := by
  intro i f s rest hf hbusy hphase t
  obtain ⟨op, k, hexec⟩ := exec_byteForm hf hbusy
  rw [hexec, byteStep_bIn hphase]
  refine ⟨fun heof => ?_, fun c herr => ?_⟩
  · rw [State.afterInRead_eof heof]
    exact endsWith_finish ..
  · rw [State.afterInRead_err herr]
    exact endsWith_finish ..

/-- Settles O16: `Ok` goes back to B_IN, `Err` leads to `finish`. -/
theorem byteFormsWriteHold : Obligations.ByteFormsWriteHold := by
  intro i f s rest hf hbusy hphase
  obtain ⟨op, k, hexec⟩ := exec_byteForm hf hbusy
  rw [hexec, byteStep_bOut hphase]
  refine ⟨fun hok => ?_, fun c herr => ?_⟩
  · rw [State.afterOutWrite_ok hok]
  · rw [State.afterOutWrite_err herr]
    exact endsWith_finish ..

/-! ### The operand byte of the stream forms (rule R95) -/

/-- `sat64(x + 1)` as a number (rules R95, R104). -/
theorem countUp_eq_ofNat_min (c : Size) : countUp c = BitVec.ofNat 64 (min (c.toNat + 1) (2 ^ 64 - 1)) := by
  rw [← countUp_toNat, BitVec.ofNat_toNat, BitVec.setWidth_eq]

theorem fileStep_fOp_byte {s : State} {op : Byte → Byte → Byte} {pol : Policy} {v : Byte} {rest : List ReadAnswer}
    (hphase : s.phase = .fOp) (hopd : s.operand.answers = .byte v :: rest) :
    fileStep op pol s
      = .next { s with
          phase := .fOut, hold := op s.hold v, oppos := countUp s.oppos
          operand := { s.operand with answers := rest, pos := s.operand.pos + 1 } } := by
  simp only [fileStep, hphase, State.afterOpRead_byte hopd]

/-- Settles O20: `fileStep_fOp_byte`, with the function of each command. -/
theorem streamFormsCombineOperand : Obligations.StreamFormsCombineOperand := by
  intro pol k v s rest hbusy hphase hopd t
  have hexec {i : Instr} {op : Byte → Byte → Byte} (hblock : blockOf i = fileStep op pol) :
      exec i s = .next (t (op s.hold v)) := by
    rw [exec_of_busy hbusy, hblock, fileStep_fOp_byte hphase hopd, countUp_eq_ofNat_min]
  exact ⟨hexec (op := opOr) rfl, hexec (op := opAnd) rfl, hexec (op := opXor) rfl⟩

/-! ### Registers and ports that a command does not use (rules R89, R136)

A change of them that is made before a step might as well be made after it: the change commutes with the step. -/

/-- The change `g` touches neither the input, the output nor anything that `finish` records. -/
structure KeepsStreams (g : State → State) : Prop where
  input : ∀ s, (g s).input = s.input
  output : ∀ s, (g s).output = s.output
  set_input : ∀ inp s, { g s with input := inp } = g { s with input := inp }
  set_output : ∀ out s, { g s with output := out } = g { s with output := out }
  finish : ∀ tag c, Function.Commute (State.finish tag c) g

section
variable {g f f' onEof onOk : State → State} {onByte : Byte → State → State}

theorem commute_ite {p : State → Prop} [DecidablePred p] (hp : ∀ s, p (g s) ↔ p s) (hf : Function.Commute f g)
    (hf' : Function.Commute f' g) : Function.Commute (fun s => if p s then f s else f' s) g := fun s => by
  simp only [hp, hf s, hf' s, apply_ite g]

theorem KeepsStreams.afterInRead (hg : KeepsStreams g) (hbyte : ∀ v, Function.Commute (onByte v) g)
    (heof : Function.Commute onEof g) : Function.Commute (State.afterInRead onByte onEof) g := by
  intro s
  rcases s.afterInRead_cases onByte onEof with ⟨h, e⟩ | ⟨v, rest, h, e⟩ | ⟨rest, h, e⟩ | ⟨c, rest, h, e⟩ <;>
    rw [e] <;> rw [← hg.input] at h
  · exact State.afterInRead_nil h
  · rw [State.afterInRead_byte h, hg.input, hg.set_input, hbyte]
  · rw [State.afterInRead_eof h, hg.input, hg.set_input, heof]
  · rw [State.afterInRead_err h, hg.input, hg.set_input, hg.finish]

theorem KeepsStreams.afterOutWrite (hg : KeepsStreams g) (v : Byte) (hok : Function.Commute onOk g) :
    Function.Commute (State.afterOutWrite v onOk) g := by
  intro s
  rcases State.afterOutWrite_cases v s onOk with ⟨h, e⟩ | ⟨rest, h, e⟩ | ⟨c, rest, h, e⟩ <;>
    rw [e] <;> rw [← hg.output] at h
  · exact State.afterOutWrite_nil h
  · rw [State.afterOutWrite_ok h, hg.output, hg.set_output, hok]
  · rw [State.afterOutWrite_err h, hg.output, hg.set_output, hg.finish]

theorem mapNext_of_commute {s : State} (hf : Function.Commute f g) :
    Host.Outcome.next (f (g s)) = mapNext g (.next (f s)) :=
  congrArg Host.Outcome.next (hf s)

end

/-! #### Byte forms (rule R89) -/

/-- `s` with everything that a byte form does not use taken from `r`. -/
def State.withUnusedOf (r s : State) : State :=
  { s with
    operand := r.operand, shamtLo := r.shamtLo, shamtHi := r.shamtHi, lenLo := r.lenLo, lenHi := r.lenHi
    cnt := r.cnt, oppos := r.oppos, carry := r.carry, opeof := r.opeof }

theorem State.withUnusedOf_phase (r s : State) : (r.withUnusedOf s).phase = s.phase := rfl

theorem State.withUnusedOf_keepsStreams (r : State) : KeepsStreams r.withUnusedOf where
  input _ := rfl
  output _ := rfl
  set_input _ _ := rfl
  set_output _ _ := rfl
  finish _ _ _ := rfl

theorem byteStep_withUnusedOf (op : Byte → Byte → Byte) (k : Byte) (r s : State) :
    byteStep op k (r.withUnusedOf s) = mapNext r.withUnusedOf (byteStep op k s) := by
  simp only [byteStep, State.withUnusedOf_phase]
  have hg := r.withUnusedOf_keepsStreams
  cases s.phase with
  | bIn => exact mapNext_of_commute (hg.afterInRead (fun _ _ => rfl) (hg.finish _ _))
  | bOut => exact mapNext_of_commute (hg.afterOutWrite s.hold fun _ => rfl)
  | _ => rfl

/-! #### Shifts (rule R136) -/

/-- `s` with the operand port, OPPOS and OPEOF taken from `r`. -/
def State.withOperandOf (r s : State) : State :=
  { s with operand := r.operand, oppos := r.oppos, opeof := r.opeof }

theorem State.withOperandOf_phase (r s : State) : (r.withOperandOf s).phase = s.phase := rfl

theorem State.withOperandOf_keepsStreams (r : State) : KeepsStreams r.withOperandOf where
  input _ := rfl
  output _ := rfl
  set_input _ _ := rfl
  set_output _ _ := rfl
  finish _ _ _ := rfl

section
variable (r : State)

theorem shortInput_withOperandOf : Function.Commute State.shortInput r.withOperandOf := fun _ => rfl

theorem afterSkip_withOperandOf : Function.Commute afterSkip r.withOperandOf :=
  commute_ite (fun _ => .rfl) (fun _ => rfl) fun _ => rfl

theorem lshNext_withOperandOf : Function.Commute lshNext r.withOperandOf :=
  commute_ite (fun _ => .rfl) (fun _ => rfl) fun _ => rfl

theorem afterLeadingZeros_withOperandOf : Function.Commute afterLeadingZeros r.withOperandOf :=
  commute_ite (fun _ => .rfl) (fun _ => rfl) fun _ => rfl

theorem rshNext_withOperandOf : Function.Commute rshNext r.withOperandOf :=
  commute_ite (fun _ => .rfl) (fun _ => rfl) <| commute_ite (fun _ => .rfl) (fun _ => rfl) fun _ => rfl

/-- A counted phase of a shift, which goes on as `last` says after its last byte. -/
theorem counted_withOperandOf {last : State → State} (hlast : Function.Commute last r.withOperandOf) :
    Function.Commute
      (fun s =>
        let u := { s with cnt := countDown s.cnt }
        if u.cnt = 0 then last u else u)
      r.withOperandOf :=
  commute_ite (p := fun s => countDown s.cnt = 0) (fun _ => .rfl)
    (hlast.comp_left (f' := fun s : State => { s with cnt := countDown s.cnt }) fun _ => rfl) fun _ => rfl

theorem lshStep_withOperandOf (s : State) :
    lshStep (r.withOperandOf s) = mapNext r.withOperandOf (lshStep s) := by
  simp only [lshStep, State.withOperandOf_phase]
  have hg := r.withOperandOf_keepsStreams
  have hshort := shortInput_withOperandOf r
  cases s.phase with
  | lsSkip =>
    exact mapNext_of_commute (hg.afterInRead (fun _ => counted_withOperandOf r (afterSkip_withOperandOf r)) hshort)
  | lsLoad =>
    have hload (x : Byte) := (lshNext_withOperandOf r).comp_left
      (f' := fun t => { t with carry := x, cnt := t.len - t.bo - 1 }) fun _ => rfl
    exact mapNext_of_commute (hg.afterInRead hload hshort)
  | lsIn => exact mapNext_of_commute (hg.afterInRead (fun _ _ => rfl) hshort)
  | lsOut => exact mapNext_of_commute (hg.afterOutWrite s.hold (lshNext_withOperandOf r))
  | lsTail =>
    exact mapNext_of_commute (hg.afterOutWrite (funnel s.carry 0x00 (8 - s.bits))
      (commute_ite (fun _ => .rfl) (fun _ => rfl) fun _ => rfl))
  | lsZero => exact mapNext_of_commute (hg.afterOutWrite 0x00 (counted_withOperandOf r (hg.finish _ _)))
  | _ => rfl

theorem rshStep_withOperandOf (s : State) :
    rshStep (r.withOperandOf s) = mapNext r.withOperandOf (rshStep s) := by
  simp only [rshStep, State.withOperandOf_phase]
  have hg := r.withOperandOf_keepsStreams
  have hshort := shortInput_withOperandOf r
  cases s.phase with
  | rsZero =>
    exact mapNext_of_commute (hg.afterOutWrite 0x00 (counted_withOperandOf r (afterLeadingZeros_withOperandOf r)))
  | rsIn => exact mapNext_of_commute (hg.afterInRead (fun _ _ => rfl) hshort)
  | rsOut => exact mapNext_of_commute (hg.afterOutWrite s.hold (rshNext_withOperandOf r))
  | rsDrain =>
    exact mapNext_of_commute (hg.afterInRead (fun _ => counted_withOperandOf r (hg.finish _ _)) hshort)
  | _ => rfl

end

/-- Settles O17: the block steps of byte forms and shifts commute with the change (`byteStep_withUnusedOf`,
`lshStep_withOperandOf`, `rshStep_withOperandOf`). -/
theorem unusedInputsMakeNoDifference : Obligations.UnusedInputsMakeNoDifference := by
  constructor
  · intro i f s opd sl sh ll lh n o c e hf hbusy change
    obtain ⟨op, k, hblock⟩ := blockOf_of_byteForm hf
    rw [exec_of_busy hbusy, exec_of_busy (s := change s) hbusy, hblock]
    exact byteStep_withUnusedOf op k (change s) s
  · intro i s opd o e hi hbusy change
    rw [exec_of_busy hbusy, exec_of_busy (s := change s) hbusy]
    cases i with
    | lsh => exact lshStep_withOperandOf (change s) s
    | rsh => exact rshStep_withOperandOf (change s) s
    | orb | andb | xorb | not | orf | andf | xorf => cases hi

/-! ### Byte forms that undo themselves (rule R90) -/

section
variable {s : State} {i : Instr} {f : Byte → Byte} {w : Word} {bs : List Byte} {rest : List ReadAnswer} {oks : List Ack}

/-- What a byte form writes on a whole input (rule R88). -/
theorem stepN_issued_byteForm (hready : s.readyToIssue w) (hd : decode w = some i) (hf : byteFormFunction i = some f)
    (hin : s.input.answers = bytesThen bs (.eof :: rest)) (hout : s.output.answers = oksThen bs.length oks) :
    ∃ t, stepN (2 * bs.length + 2) s = .next t ∧ t.output.written = s.output.written ++ bs.map f := by
  obtain ⟨t, hrun, hobs⟩ := runsTo_issued_byteForm hready hd hf hin hout fun hu => step_bIn_eof hu hf
  exact ⟨t, hrun, congrArg (fun u => u.output.written) hobs⟩

theorem byteFormFunction_involutive (hi : (∃ k p, i = .xorb k p) ∨ ∃ k p, i = .not k p) :
    ∃ f, byteFormFunction i = some f ∧ f.Involutive := by
  obtain ⟨k, p, rfl⟩ | ⟨k, p, rfl⟩ := hi
  · refine ⟨_, rfl, fun a => ?_⟩
    rw [BitVec.xor_assoc, BitVec.xor_self, BitVec.xor_zero]
  · exact ⟨_, rfl, fun _ => BitVec.not_not⟩

end

/-- Settles O58: both runs map the function of the command over their input, and the function is its own inverse. -/
theorem byteFormsUndoThemselves : Obligations.ByteFormsUndoThemselves := by
  intro i w w' s s' t bs ys rest rest' oks oks' hi hd hd' hready hready' hin hout hrun hys hin' hout'
  obtain ⟨f, hf, hinvolutive⟩ := byteFormFunction_involutive hi
  obtain ⟨u, hrunu, hu⟩ := stepN_issued_byteForm hready hd hf hin hout
  obtain rfl : t = u := Host.Outcome.next.inj (hrun.symm.trans hrunu)
  obtain rfl : ys = bs.map f := List.append_cancel_left (hys.symm.trans hu)
  obtain ⟨t', hrun', ht'⟩ := stepN_issued_byteForm hready' hd' hf hin' hout'
  rw [List.length_map] at hrun'
  rw [List.map_map, hinvolutive.comp_self, List.map_id] at ht'
  exact ⟨t', hrun', ht'⟩

end Sys2Proof.Machine

/-! The stream forms, one step at a time: what each answer of a port does at F_IN, F_OP, F_REW and F_OUT (rules R91, R95,
R97 to R102). -/

namespace Sys2Proof.Machine

/-! ### The steps of the stream forms (rules R91, R95) -/

section
variable {s t : State} {i : Instr} {op : Byte → Byte → Byte} {pol : Policy} {a v : Byte}

/-- The block steps of a stream form are those of rules R91 and R95 over its function and its policy. -/
theorem exec_streamForm (hf : streamFormFunction i = some (op, pol)) (hbusy : s.status.busy = true) :
    exec i s = fileStep op pol s := by
  rw [exec_of_busy hbusy]
  cases i with
  | orf | andf | xorf => cases hf; rfl
  | orb | andb | xorb | not | lsh | rsh => cases hf

theorem startOf_of_streamForm (hf : streamFormFunction i = some (op, pol)) : startOf i = startFile := by
  cases i with
  | orf | andf | xorf => rfl
  | orb | andb | xorb | not | lsh | rsh => cases hf

theorem fileStep_fIn (hphase : s.phase = .fIn) :
    fileStep op pol s = .next (s.afterInRead (fileInput op pol) (State.finish .none none)) := by
  rw [fileStep, hphase]

theorem fileStep_fOp (hphase : s.phase = .fOp) :
    fileStep op pol s = .next (s.afterOpRead
      (fun v t => { t with oppos := countUp t.oppos, hold := op t.hold v, phase := .fOut }) (operandEof op pol)) := by
  rw [fileStep, hphase]

theorem fileStep_fRew (hphase : s.phase = .fRew) :
    fileStep op .loop s = .next (s.afterOpRewind fun t => { t with oppos := 0, phase := .fOp }) := by
  rw [fileStep, hphase]
  rfl

theorem fileStep_fOut (hphase : s.phase = .fOut) :
    fileStep op pol s = .next (s.afterOutWrite s.hold fun t => { t with phase := .fIn }) := by
  rw [fileStep, hphase]

/-- While the operand has not ended, an input byte waits for its operand byte (rule R91). -/
theorem fileInput_of_opeof_clear (h : t.opeof = false) :
    fileInput op pol a t = { t with hold := a, phase := .fOp } := by
  rw [fileInput, h]

/-- Once the operand has ended, an input byte meets the fill byte (rules R101, R102, R105). -/
theorem fileInput_of_opeof_set (h : t.opeof = true) (hfill : fillByte pol = some v) :
    fileInput op pol a t = { t with hold := op a v, phase := .fOut } := by
  rw [fileInput, h, hfill]

/-- Under a filling policy the operand's end sets OPEOF, and the byte in HOLD meets the fill byte (rules R101, R102). -/
theorem operandEof_of_fill (hfill : fillByte pol = some v) :
    operandEof op pol t = { t with opeof := true, hold := op t.hold v, phase := .fOut } := by
  cases pol with
  | zeroFill | oneFill => cases hfill; rfl
  | error | truncate | loop => cases hfill

/-- Under Loop an operand that has given a byte is rewound at its end (rule R100). -/
theorem operandEof_loop_of_ne_zero (h : t.oppos ≠ 0) : operandEof op .loop t = { t with phase := .fRew } := if_neg h

end

/-- Settles O18: `fileInput` by OPEOF, with the fill byte of each filling policy. -/
theorem streamFormsTakeInput : Obligations.StreamFormsTakeInput := by
  intro i op pol s a rest hf hbusy hphase hin t
  rw [exec_streamForm hf hbusy, fileStep_fIn hphase, State.afterInRead_byte hin]
  refine ⟨fun hclear => ?_, fun hset hpol => ?_, fun hset hpol => ?_⟩
  · exact congrArg _ (fileInput_of_opeof_clear hclear)
  · exact congrArg _ (fileInput_of_opeof_set hset (hpol ▸ rfl))
  · exact congrArg _ (fileInput_of_opeof_set hset (hpol ▸ rfl))

/-- Settles O19: both answers lead straight to `finish`. -/
theorem streamFormsEndWithInput : Obligations.StreamFormsEndWithInput := by
  intro i op pol s rest hf hbusy hphase t
  rw [exec_streamForm hf hbusy, fileStep_fIn hphase]
  refine ⟨fun heof => ?_, fun c herr => ?_⟩
  · rw [State.afterInRead_eof heof]
    exact endsWith_finish ..
  · rw [State.afterInRead_err herr]
    exact endsWith_finish ..

/-- Settles O24: `Ok` goes back to F_IN, `Err` leads to `finish`. -/
theorem streamFormsWriteHold : Obligations.StreamFormsWriteHold := by
  intro i op pol s rest hf hbusy hphase
  rw [exec_streamForm hf hbusy, fileStep_fOut hphase]
  refine ⟨fun hok => ?_, fun c herr => ?_⟩
  · rw [State.afterOutWrite_ok hok]
  · rw [State.afterOutWrite_err herr]
    exact endsWith_finish ..

end Sys2Proof.Machine

/-! A stream form on whole streams, up to the end of the operand and, under the filling policies, beyond it (rules R91,
R95, R106 to R110). -/

namespace Sys2Proof.Machine

/-! ### The states of a running stream form -/

/-- `s` at another place of its stream form: all that a block step can change before the command ends. -/
def State.fileStage (s : State) (p : Phase) (h : Byte) (o : Size) (e : Bool) (inp : InPort) (opd : OperandPort)
    (out : OutPort) : State :=
  { s with phase := p, hold := h, oppos := o, opeof := e, input := inp, operand := opd, output := out }

section
variable {s t : State} {i : Instr} {op : Byte → Byte → Byte} {pol : Policy} {w : Word} {p : Phase} {h x v : Byte}
  {m n pos opos start : Nat} {o : Size} {e : Bool} {inp : InPort} {opd : OperandPort} {out : OutPort}
  {rest opRest : List ReadAnswer} {rew oks : List Ack} {wr bs xs os : List Byte}

theorem State.Running.fileStage (hs : s.Running i) : (s.fileStage p h o e inp opd out).Running i :=
  ⟨hs.agenda, hs.busy, hs.decodes⟩

theorem State.Running.step_streamForm (hs : s.Running i) (hf : streamFormFunction i = some (op, pol)) :
    step s = fileStep op pol s := by
  rw [hs.step_eq, exec_streamForm hf hs.busy]

theorem step_fIn_byte (hs : s.Running i) (hf : streamFormFunction i = some (op, pol)) :
    step (s.fileStage .fIn h o false ⟨.byte x :: rest, pos⟩ opd out)
      = .next (s.fileStage .fOp x o false ⟨rest, pos + 1⟩ opd out) := by
  rw [hs.fileStage.step_streamForm hf, fileStep_fIn rfl, State.afterInRead_byte rfl, fileInput_of_opeof_clear rfl]
  rfl

theorem step_fIn_byte_fill (hs : s.Running i) (hf : streamFormFunction i = some (op, pol))
    (hfill : fillByte pol = some v) :
    step (s.fileStage .fIn h o true ⟨.byte x :: rest, pos⟩ opd out)
      = .next (s.fileStage .fOut (op x v) o true ⟨rest, pos + 1⟩ opd out) := by
  rw [hs.fileStage.step_streamForm hf, fileStep_fIn rfl, State.afterInRead_byte rfl, fileInput_of_opeof_set rfl hfill]
  rfl

theorem step_fIn_eof (hs : s.Running i) (hf : streamFormFunction i = some (op, pol)) :
    step (s.fileStage .fIn h o e ⟨.eof :: rest, pos⟩ opd out)
      = .next ((s.fileStage .fIn h o e ⟨rest, pos⟩ opd out).finish .none none) := by
  rw [hs.fileStage.step_streamForm hf, fileStep_fIn rfl, State.afterInRead_eof rfl]
  rfl

theorem step_fOp_byte (hs : s.Running i) (hf : streamFormFunction i = some (op, pol)) :
    step (s.fileStage .fOp h o e inp ⟨.byte v :: opRest, rew, opos, start⟩ out)
      = .next (s.fileStage .fOut (op h v) (countUp o) e inp ⟨opRest, rew, opos + 1, start⟩ out) := by
  rw [hs.fileStage.step_streamForm hf, fileStep_fOp_byte rfl rfl]
  rfl

theorem step_fOp_eof (hs : s.Running i) (hf : streamFormFunction i = some (op, pol)) :
    step (s.fileStage .fOp h o e inp ⟨.eof :: opRest, rew, opos, start⟩ out)
      = .next (operandEof op pol (s.fileStage .fOp h o e inp ⟨opRest, rew, opos, start⟩ out)) := by
  rw [hs.fileStage.step_streamForm hf, fileStep_fOp rfl, State.afterOpRead_eof rfl]
  rfl

theorem step_fOp_eof_fill (hs : s.Running i) (hf : streamFormFunction i = some (op, pol))
    (hfill : fillByte pol = some v) :
    step (s.fileStage .fOp h o e inp ⟨.eof :: opRest, rew, opos, start⟩ out)
      = .next (s.fileStage .fOut (op h v) o true inp ⟨opRest, rew, opos, start⟩ out) := by
  rw [step_fOp_eof hs hf, operandEof_of_fill hfill]
  rfl

theorem step_fOp_eof_loop (hs : s.Running i) (hf : streamFormFunction i = some (op, .loop)) (ho : o ≠ 0) :
    step (s.fileStage .fOp h o e inp ⟨.eof :: opRest, rew, opos, start⟩ out)
      = .next (s.fileStage .fRew h o e inp ⟨opRest, rew, opos, start⟩ out) := by
  rw [step_fOp_eof hs hf, operandEof_loop_of_ne_zero ho]
  rfl

theorem step_fRew_ok (hs : s.Running i) (hf : streamFormFunction i = some (op, .loop)) :
    step (s.fileStage .fRew h o e inp ⟨opRest, .ok :: rew, opos, start⟩ out)
      = .next (s.fileStage .fOp h 0 e inp ⟨opRest, rew, start, start⟩ out) := by
  rw [hs.fileStage.step_streamForm hf, fileStep_fRew rfl, State.afterOpRewind_ok rfl]
  rfl

theorem step_fOut_ok (hs : s.Running i) (hf : streamFormFunction i = some (op, pol)) :
    step (s.fileStage .fOut h o e inp opd ⟨.ok :: oks, wr⟩)
      = .next (s.fileStage .fIn h o e inp opd ⟨oks, wr ++ [h]⟩) := by
  rw [hs.fileStage.step_streamForm hf, fileStep_fOut rfl, State.afterOutWrite_ok rfl]
  rfl

/-! ### From the issue of a stream form to its end -/

/-- The step that issues a stream form leads to its first F_IN (rules R71, R91). -/
theorem runsTo_of_issued_streamForm {ins opAnswers : List ReadAnswer} (hready : s.readyToIssue w)
    (hd : decode w = some i) (hf : streamFormFunction i = some (op, pol)) (hin : s.input.answers = ins)
    (hopd : s.operand.answers = opAnswers) (hout : s.output.answers = oks)
    (hrun : ({ s with agenda := [] }.accepted w).Running i →
      runsTo n (({ s with agenda := [] }.accepted w).fileStage .fIn 0 0 false ⟨ins, s.input.pos⟩
        ⟨opAnswers, s.operand.rewinds, s.operand.pos, s.operand.pos⟩ ⟨oks, s.output.written⟩) t) :
    runsTo (n + 1) s t := by
  obtain ⟨-, hidle, hports⟩ := id hready
  have hissue : step s = .next (startFile ({ s with agenda := [] }.accepted w)) := by
    rw [step_of_readyToIssue hready hd, ← startOf_of_streamForm hf]
    exact exec_of_idle hidle hports (encode_of_decode hd)
  subst hin hopd hout
  exact runsTo_of_step hissue (hrun (State.running_accepted hd))

/-- An issued stream form that has reached `finish` has run (rule R145). -/
theorem runsTo_fileStage_finish {tag : ResultTag} {c : Option Word} :
    runsTo 0 ((({ s with agenda := [] }.accepted w).fileStage p h o e inp opd out).finish tag c)
      (s.ran w tag c inp opd out) :=
  runsTo_zero rfl

/-! ### Input and operand byte by byte -/

/-- OPPOS is not 0 once an operand byte has been read: it saturates and never wraps (rules R33, R104). -/
theorem countUp_iterate_ne_zero (hn : 0 < n) : countUp^[n] o ≠ 0 := by
  obtain ⟨k, rfl⟩ := Nat.exists_eq_succ_of_ne_zero hn.ne'
  rw [Function.iterate_succ_apply']
  intro hzero
  have := congrArg BitVec.toNat hzero
  rw [countUp_toNat] at this
  simp at this

/-- While both streams give bytes, each pair of them takes three steps, under every policy (rules R91, R95). -/
theorem runsTo_streamForm (hs : s.Running i) (hf : streamFormFunction i = some (op, pol)) (hlen : os.length = bs.length)
    (hend : ∀ h, runsTo m (s.fileStage .fIn h (countUp^[bs.length] o) false ⟨rest, pos + bs.length⟩
      ⟨opRest, rew, opos + bs.length, start⟩ ⟨oks, wr ++ List.zipWith op bs os⟩) t) :
    runsTo (3 * bs.length + m) (s.fileStage .fIn h o false ⟨bytesThen bs rest, pos⟩
      ⟨bytesThen os opRest, rew, opos, start⟩ ⟨oksThen bs.length oks, wr⟩) t := by
  induction bs generalizing os h o pos opos wr with
  | nil =>
    obtain rfl := List.length_eq_zero_iff.mp hlen
    simpa [bytesThen, oksThen] using hend h
  | cons x xs ih =>
    obtain ⟨v, vs, rfl⟩ := List.exists_cons_of_length_eq_add_one hlen
    have hsteps : 3 * (xs.length + 1) + m = 3 * xs.length + m + 1 + 1 + 1 := by omega
    rw [List.length_cons, hsteps, bytesThen_cons, bytesThen_cons, oksThen_succ]
    refine runsTo_of_step (step_fIn_byte hs hf) (runsTo_of_step (step_fOp_byte hs hf)
      (runsTo_of_step (step_fOut_ok hs hf) (ih (by simpa using hlen) fun h => ?_)))
    simpa [Nat.add_assoc, Nat.add_comm 1] using hend h

/-! ### Beyond the operand's end under a filling policy -/

/-- With OPEOF set each input byte takes two steps and meets the fill byte (rules R101, R102, R105). -/
theorem runsTo_streamForm_filled (hs : s.Running i) (hf : streamFormFunction i = some (op, pol))
    (hfill : fillByte pol = some v)
    (hend : ∀ h, runsTo m (s.fileStage .fIn h o true ⟨rest, pos + bs.length⟩ opd ⟨oks, wr ++ bs.map (op · v)⟩) t) :
    runsTo (2 * bs.length + m)
      (s.fileStage .fIn h o true ⟨bytesThen bs rest, pos⟩ opd ⟨oksThen bs.length oks, wr⟩) t := by
  induction bs generalizing h pos wr with
  | nil => simpa [bytesThen, oksThen] using hend h
  | cons x xs ih =>
    have hsteps : 2 * (xs.length + 1) + m = 2 * xs.length + m + 1 + 1 := by omega
    rw [List.length_cons, hsteps, bytesThen_cons, oksThen_succ]
    refine runsTo_of_step (step_fIn_byte_fill hs hf hfill) (runsTo_of_step (step_fOut_ok hs hf) (ih fun h => ?_))
    simpa [Nat.add_assoc, Nat.add_comm 1] using hend h

theorem zipWith_append_replicate (hlen : os.length = bs.length) :
    List.zipWith op (bs ++ xs) (os ++ List.replicate xs.length v) = List.zipWith op bs os ++ xs.map (op · v) := by
  rw [List.zipWith_append hlen.symm]
  congr 1
  induction xs with
  | nil => rfl
  | cons x xs ih => simp [List.replicate_succ, ih]

end

/-- Settles O52: `runsTo_streamForm`, and the step at the input's `Eof`. -/
theorem streamFormCombinesStreams : Obligations.StreamFormCombinesStreams := by
  intro w i op pol s bs os rest opRest oks hready hd hf hlen hin hopd hout
  exact runsTo_of_issued_streamForm hready hd hf hin hopd hout fun hs =>
    runsTo_streamForm hs hf hlen fun _ => runsTo_of_step (step_fIn_eof hs hf) runsTo_fileStage_finish

/-- Settles O53: `runsTo_streamForm`, then the input byte in hand and the operand's `Eof` by policy. -/
theorem streamFormStopsWithOperand : Obligations.StreamFormStopsWithOperand := by
  intro w i op pol s bs os x rest opRest oks hready hd hf hlen hin hopd hout t
  have hstops {tag : ResultTag}
      (hlast : ∀ u : State, u.oppos = countUp^[bs.length] 0 → operandEof op pol u = u.finish tag none) :
      runsTo (3 * bs.length + 3) s (t tag) :=
    runsTo_of_issued_streamForm hready hd hf hin hopd hout fun hs =>
      runsTo_streamForm hs hf hlen fun _ => runsTo_of_step (step_fIn_byte hs hf) <|
        runsTo_of_step (step_fOp_eof hs hf) (by rw [hlast _ rfl]; exact runsTo_fileStage_finish)
  refine ⟨fun hpol => hstops fun u _ => hpol ▸ rfl, fun hpol => hstops fun u _ => hpol ▸ rfl, fun hpol hos => ?_⟩
  obtain rfl : bs = [] := List.length_eq_zero_iff.mp (by rw [← hlen, hos, List.length_nil])
  exact hstops fun u hcount => hpol ▸ if_pos hcount

/-- Settles O54: `runsTo_streamForm` up to the operand's `Eof`, and `runsTo_streamForm_filled` beyond it. -/
theorem streamFormFillsOperand : Obligations.StreamFormFillsOperand := by
  intro w i op pol v s bs os rest opRest oks hready hd hf hpol hlt hin hopd hout
  have hfill : fillByte pol = some v := by
    obtain ⟨rfl, rfl⟩ | ⟨rfl, rfl⟩ := hpol <;> rfl
  obtain ⟨pre, x, xs, rfl, hpre⟩ := exists_append_cons_of_lt hlt
  have hlen : (pre ++ x :: xs).length = pre.length + (xs.length + 1) := by simp
  have hsteps : 2 * (pre ++ x :: xs).length + os.length + 3 = 3 * pre.length + (2 * xs.length + 1 + 3) + 1 := by omega
  have hrest : (pre ++ x :: xs).length - os.length = (x :: xs).length := by simp [hpre]
  rw [hrest, zipWith_append_replicate hpre.symm, hsteps]
  rw [hlen, oksThen_add] at hout
  rw [bytesThen_append] at hin
  refine runsTo_of_issued_streamForm hready hd hf hin hopd hout fun hs =>
    runsTo_streamForm hs hf hpre.symm fun _ => runsTo_of_step (step_fIn_byte hs hf) <|
      runsTo_of_step (step_fOp_eof_fill hs hf hfill) <| runsTo_of_step (step_fOut_ok hs hf) <|
        runsTo_streamForm_filled hs hf hfill fun _ => runsTo_of_step (step_fIn_eof hs hf) ?_
  have hpos : s.input.pos + (pre ++ x :: xs).length = s.input.pos + pre.length + 1 + xs.length := by omega
  have hwritten : s.output.written ++ (List.zipWith op pre os ++ (x :: xs).map (op · v))
      = s.output.written ++ List.zipWith op pre os ++ [op x v] ++ xs.map (op · v) := by simp
  rw [hpos, hwritten, ← hpre]
  exact runsTo_fileStage_finish

end Sys2Proof.Machine

/-! A stream form under Loop, whose operand repeats cyclically (rules R99, R100, R103, R108). -/

namespace Sys2Proof.Machine

/-! ### The operand and the output under Loop -/

/-- How often an operand of `n` bytes is rewound for `l` input bytes (rule R171). -/
def loopWraps (n l : Nat) : Nat := (l - 1) / n

/-- The operand port after `l` input bytes, where `os` is ready to be delivered `n` times from `start` on. -/
def loopOperand (n : Nat) (os : List Byte) (start l : Nat) : OperandPort where
  answers := (passes n os).drop (l + loopWraps os.length l)
  rewinds := List.replicate (n - loopWraps os.length l) .ok
  pos := start + (l - loopWraps os.length l * os.length)
  start := start

/-- Input byte j combined with operand byte j mod N (rule R108). -/
def combineCyclic (op : Byte → Byte → Byte) (os bs : List Byte) : List Byte :=
  bs.mapIdx fun j a => op a (os.getD (j % os.length) 0)

section
variable {op : Byte → Byte → Byte} {os bs xs : List Byte} {n l start : Nat}

theorem loopWraps_of_le (hn : 0 < n) (hl : l ≤ n) : loopWraps n l = 0 := Nat.div_eq_of_lt (by omega)

theorem loopWraps_add (hn : 0 < n) (hl : 0 < l) : loopWraps n (n + l) = loopWraps n l + 1 := by
  rw [loopWraps, Nat.add_sub_assoc hl, Nat.add_div_left _ hn]
  rfl

theorem passes_succ : passes (n + 1) os = bytesThen os (.eof :: passes n os) := by
  simp [passes, List.replicate_succ, bytesThen]

theorem loopOperand_zero : loopOperand n os start 0 = ⟨passes n os, List.replicate n .ok, start, start⟩ := by
  simp [loopOperand, loopWraps]

/-- Within a pass (rule R99). -/
theorem loopOperand_of_le (hos : 0 < os.length) (hl : l ≤ os.length) :
    loopOperand (n + 1) os start l
      = ⟨bytesThen (os.drop l) (.eof :: passes n os), List.replicate (n + 1) .ok, start + l, start⟩ := by
  have hdrop : (bytesThen os (.eof :: passes n os)).drop l = bytesThen (os.drop l) (.eof :: passes n os) := by
    rw [bytesThen, List.drop_append_of_le_length (by simpa using hl), ← List.map_drop, bytesThen]
  simp only [loopOperand, loopWraps_of_le hos hl, passes_succ, Nat.add_zero, hdrop, Nat.sub_zero, Nat.zero_mul]

/-- A whole pass and a rewind leave the operand where it started, with one pass less to come (rule R100). -/
theorem loopOperand_add (hos : 0 < os.length) (hl : 0 < l) :
    loopOperand (n + 1) os start (os.length + l) = loopOperand n os start l := by
  have hdrop (k : Nat) : (passes (n + 1) os).drop (os.length + 1 + k) = (passes n os).drop k := by
    rw [passes_succ, bytesThen, List.append_cons, ← List.drop_drop, List.drop_left' (by simp)]
  have hanswers : os.length + l + (loopWraps os.length l + 1) = os.length + 1 + (l + loopWraps os.length l) := by omega
  have hpos : os.length + l - (loopWraps os.length l + 1) * os.length = l - loopWraps os.length l * os.length := by
    rw [Nat.succ_mul, Nat.add_comm (_ * _), Nat.add_sub_add_left]
  simp only [loopOperand, loopWraps_add hos hl, hanswers, hdrop, hpos, Nat.add_sub_add_right]

theorem combineCyclic_of_le (hl : bs.length ≤ os.length) :
    combineCyclic op os bs = List.zipWith op bs (os.take bs.length) := by
  refine List.ext_getElem (by simpa [combineCyclic] using hl) fun j hj _ => ?_
  have hj : j < bs.length := by simpa [combineCyclic] using hj
  simp [combineCyclic, Nat.mod_eq_of_lt (hj.trans_le hl), hj.trans_le hl]

theorem combineCyclic_append (hl : os.length = bs.length) :
    combineCyclic op os (bs ++ xs) = List.zipWith op bs os ++ combineCyclic op os xs := by
  have hfirst := combineCyclic_of_le (op := op) hl.ge
  rw [← hl, List.take_length] at hfirst
  rw [← hfirst, combineCyclic, List.mapIdx_append]
  simp only [← hl, Nat.add_mod_right]
  rfl

end

/-! ### Pass by pass -/

section
variable {s t : State} {i : Instr} {op : Byte → Byte → Byte} {pol : Policy} {m n pos opos start : Nat} {h x : Byte}
  {o : Size} {out : OutPort} {rest opRest : List ReadAnswer} {rew oks : List Ack} {wr xs os : List Byte}

/-- `runsTo_streamForm` from F_OP, where the first input byte is already in HOLD. -/
theorem runsTo_streamForm_fOp (hs : s.Running i) (hf : streamFormFunction i = some (op, pol))
    (hlen : os.length = (x :: xs).length)
    (hend : ∀ h, runsTo m (s.fileStage .fIn h (countUp^[os.length] o) false ⟨rest, pos + xs.length⟩
      ⟨opRest, rew, opos + os.length, start⟩ ⟨oks, wr ++ List.zipWith op (x :: xs) os⟩) t) :
    runsTo (3 * xs.length + 2 + m) (s.fileStage .fOp x o false ⟨bytesThen xs rest, pos⟩
      ⟨bytesThen os opRest, rew, opos, start⟩ ⟨oksThen (x :: xs).length oks, wr⟩) t := by
  obtain ⟨v, vs, rfl⟩ := List.exists_cons_of_length_eq_add_one hlen
  have hvs : vs.length = xs.length := by simpa using hlen
  have hsteps : 3 * xs.length + 2 + m = 3 * xs.length + m + 1 + 1 := by omega
  rw [hsteps]
  refine runsTo_of_step (step_fOp_byte hs hf) (runsTo_of_step (step_fOut_ok hs hf)
    (runsTo_streamForm hs hf hvs fun h => ?_))
  simpa [hvs, Nat.add_assoc, Nat.add_comm 1] using hend h

/-- The last pass under Loop: the input ends before the operand is read beyond its end. -/
theorem runsTo_lastPass (hs : s.Running i) (hf : streamFormFunction i = some (op, .loop)) (hos : 0 < os.length)
    (hle : (x :: xs).length ≤ os.length)
    (hend : ∀ h o, runsTo m (s.fileStage .fIn h o false ⟨rest, pos + xs.length⟩
      (loopOperand (n + 1) os start (x :: xs).length) ⟨oks, wr ++ combineCyclic op os (x :: xs)⟩) t) :
    runsTo (3 * xs.length + 2 + m) (s.fileStage .fOp x o false ⟨bytesThen xs rest, pos⟩
      (loopOperand (n + 1) os start 0) ⟨oksThen (x :: xs).length oks, wr⟩) t := by
  have hread : (os.take (x :: xs).length).length = (x :: xs).length := List.length_take_of_le hle
  have hstart : loopOperand (n + 1) os start 0
      = ⟨bytesThen (os.take (x :: xs).length) (bytesThen (os.drop (x :: xs).length) (.eof :: passes n os)),
        List.replicate (n + 1) .ok, start, start⟩ := by
    rw [loopOperand_zero, ← bytesThen_append, List.take_append_drop, passes_succ]
  rw [hstart]
  refine runsTo_streamForm_fOp hs hf hread fun h => ?_
  rw [hread, ← combineCyclic_of_le hle, ← loopOperand_of_le hos hle]
  exact hend h _

/-- Under Loop the operand's end costs three steps: the input byte, the operand's `Eof`, and the rewind (rule R100). -/
theorem runsTo_rewind (hs : s.Running i) (hf : streamFormFunction i = some (op, .loop)) (ho : o ≠ 0)
    (hend : runsTo m (s.fileStage .fOp x 0 false ⟨rest, pos + 1⟩ (loopOperand n os start 0) out) t) :
    runsTo (m + 3) (s.fileStage .fIn h o false ⟨.byte x :: rest, pos⟩
      ⟨.eof :: passes n os, List.replicate (n + 1) .ok, opos, start⟩ out) t := by
  rw [loopOperand_zero] at hend
  exact runsTo_of_step (step_fIn_byte hs hf) <| runsTo_of_step (step_fOp_eof_loop hs hf ho) <|
    runsTo_of_step (step_fRew_ok hs hf) hend

/-- Under Loop, from an operand at its start and the first input byte in HOLD: either the input ends within this pass, or
the pass ends, the operand is rewound with the next input byte in HOLD, and the same holds of the passes left. -/
theorem runsTo_loop (hs : s.Running i) (hf : streamFormFunction i = some (op, .loop)) (hos : 0 < os.length)
    (hlen : (x :: xs).length ≤ n * os.length)
    (hend : ∀ h o, runsTo m (s.fileStage .fIn h o false ⟨rest, pos + xs.length⟩
      (loopOperand n os start (x :: xs).length) ⟨oks, wr ++ combineCyclic op os (x :: xs)⟩) t) :
    runsTo (3 * xs.length + 2 + 2 * loopWraps os.length (x :: xs).length + m)
      (s.fileStage .fOp x o false ⟨bytesThen xs rest, pos⟩ (loopOperand n os start 0)
        ⟨oksThen (x :: xs).length oks, wr⟩) t := by
  induction n generalizing x xs o pos wr with
  | zero => simp at hlen
  | succ n ih =>
    by_cases hle : (x :: xs).length ≤ os.length
    · rw [loopWraps_of_le hos hle]
      exact runsTo_lastPass hs hf hos hle hend
    obtain ⟨ys, z, zs, rfl, hys⟩ : ∃ ys z zs, xs = ys ++ z :: zs ∧ ys.length = os.length - 1 :=
      exists_append_cons_of_lt (by rw [List.length_cons] at hle; omega)
    have hpass : os.length = (x :: ys).length := by rw [List.length_cons]; omega
    have hsplit : (x :: (ys ++ z :: zs)).length = os.length + (z :: zs).length := by
      rw [hpass, ← List.length_append, List.cons_append]
    have hleft : 0 < (z :: zs).length := Nat.succ_pos _
    have hsteps : 3 * (ys ++ z :: zs).length + 2 + 2 * (loopWraps os.length (z :: zs).length + 1) + m
        = 3 * ys.length + 2 + (3 * zs.length + 2 + 2 * loopWraps os.length (z :: zs).length + m + 3) := by
      rw [List.length_append, List.length_cons]
      omega
    have hpos : pos + (ys ++ z :: zs).length = pos + ys.length + 1 + zs.length := by
      rw [List.length_append, List.length_cons]
      omega
    have hoks : oksThen (os.length + (z :: zs).length) oks
        = oksThen (x :: ys).length (oksThen (z :: zs).length oks) := by
      rw [oksThen_add, hpass]
    have hlen' : (z :: zs).length ≤ n * os.length := by
      rw [hsplit, Nat.succ_mul] at hlen
      omega
    rw [hsplit, loopOperand_add hos hleft, hpos, ← List.cons_append, combineCyclic_append hpass] at hend
    rw [hsplit, loopWraps_add hos hleft, hsteps, bytesThen_append, hoks, loopOperand_zero, passes_succ]
    refine runsTo_streamForm_fOp hs hf hpass fun _ =>
      runsTo_rewind hs hf (countUp_iterate_ne_zero hos) (ih hlen' fun h o => ?_)
    rw [List.append_assoc]
    exact hend h o

end

/-- Settles O55: an empty input ends at once; otherwise `runsTo_loop` from the first input byte on. -/
theorem streamFormLoopsOperand : Obligations.StreamFormLoopsOperand := by
  intro w i op s bs os n rest oks hready hd hf hos hlen hin hopd hrew hout wraps
  rw [hopd]
  have hstart : (⟨passes n os, s.operand.rewinds, s.operand.pos, s.operand.pos⟩ : OperandPort)
      = loopOperand n os s.operand.pos 0 := by rw [loopOperand_zero, hrew]
  refine runsTo_of_issued_streamForm (n := 3 * bs.length + 2 * wraps + 1) hready hd hf hin hopd hout fun hs => ?_
  rw [hstart]
  cases bs with
  | nil =>
    have hsteps : 3 * ([] : List Byte).length + 2 * wraps + 1 = 1 := by simp [wraps]
    rw [hsteps, List.mapIdx_nil, List.append_nil]
    exact runsTo_of_step (step_fIn_eof hs hf) runsTo_fileStage_finish
  | cons x xs =>
    have hsteps : 3 * (x :: xs).length + 2 * wraps + 1 = 3 * xs.length + 2 + 2 * wraps + 1 + 1 := by
      rw [List.length_cons]
      omega
    have hpos : s.input.pos + (x :: xs).length = s.input.pos + 1 + xs.length := by
      rw [List.length_cons]
      omega
    rw [hsteps, hpos]
    exact runsTo_of_step (step_fIn_byte hs hf) <| runsTo_loop hs hf hos hlen fun _ _ =>
      runsTo_of_step (step_fIn_eof hs hf) runsTo_fileStage_finish

end Sys2Proof.Machine

/-! The shifts, one step at a time: the funnel shifter bit by bit and as the source's formulas, what each answer of a
port does in each phase of LSH and RSH, and the stream of no bytes (rules R113 to R116, R125, R127, R129 to R132). -/

namespace Sys2Proof.Machine

/-! ### The funnel shifter (rules R113 to R115) -/

section
variable {r : Nat}

theorem getLsbD_funnel (hi lo : Byte) {j : Nat} (hj : j < 8) :
    (funnel hi lo r).getLsbD j = if j + r < 8 then lo.getLsbD (j + r) else hi.getLsbD (j + r - 8) := by
  simp only [funnel, BitVec.getLsbD_setWidth, BitVec.getLsbD_ushiftRight, BitVec.getLsbD_append, hj, decide_true,
    Bool.true_and, Nat.add_comm r j]

theorem funnel_zero (hi lo : Byte) : funnel hi lo 0 = lo := by
  refine BitVec.eq_of_getLsbD_eq fun j hj => ?_
  rw [getLsbD_funnel hi lo hj, Nat.add_zero, if_pos hj]

theorem funnel_eight (hi lo : Byte) : funnel hi lo 8 = hi := by
  refine BitVec.eq_of_getLsbD_eq fun j hj => ?_
  rw [getLsbD_funnel hi lo hj, if_neg (by omega), Nat.add_sub_cancel]

/-- A funnel-shifted byte has the low bits of `hi` above the high bits of `lo`. -/
theorem funnel_eq_or (hi lo : Byte) (hr : r ≤ 8) : funnel hi lo r = hi <<< (8 - r) ||| lo >>> r := by
  refine BitVec.eq_of_getLsbD_eq fun j hj => ?_
  rw [getLsbD_funnel hi lo hj, BitVec.getLsbD_or, BitVec.getLsbD_shiftLeft, BitVec.getLsbD_ushiftRight, Nat.add_comm r]
  split
  next hlo =>
    have hbelow : j < 8 - r := by omega
    simp [hbelow]
  next hhi =>
    have habove : ¬ j < 8 - r := by omega
    have hindex : j - (8 - r) = j + r - 8 := by omega
    have hbeyond : lo.getLsbD (j + r) = false := BitVec.getLsbD_of_ge lo _ (Nat.le_of_not_lt hhi)
    simp [hj, habove, hindex, hbeyond]

/-- The left-shift byte of rule R114. -/
theorem funnel_eight_sub (hi lo : Byte) {b : Nat} (hb : b ≤ 8) :
    funnel hi lo (8 - b) = hi <<< b ||| lo >>> (8 - b) := by
  rw [funnel_eq_or hi lo (Nat.sub_le 8 b), Nat.sub_sub_self hb]

end

/-- Settles O26: `funnel_eq_or` at 8 - b and at b. -/
theorem funnelComputesSourceFormulas : Obligations.FunnelComputesSourceFormulas := fun x y _ hb =>
  ⟨funnel_eight_sub x y hb.le, funnel_eq_or x y hb.le⟩

/-! ### The steps of LSH (rule R125), one equation a phase -/

/-- CNT counts down, and `last` follows its last count: LS_SKIP, LS_ZERO, RS_ZERO and RS_DRAIN (rules R125, R127). -/
def counted (last : State → State) (t : State) : State :=
  if countDown t.cnt = 0 then last { t with cnt := countDown t.cnt } else { t with cnt := countDown t.cnt }

section
variable {s t : State} {last : State → State} {k : Byte} {p : BitVec 3}

theorem countDown_of_pos {c : Size} (h : 0 < c.toNat) : countDown c = c - 1 := by
  refine if_neg fun h0 => ?_
  rw [h0] at h
  exact Nat.lt_irrefl 0 h

theorem counted_of_one_lt (h : 1 < t.cnt.toNat) : counted last t = { t with cnt := t.cnt - 1 } := by
  have hne : ¬ t.cnt - 1 = 0 := by bv_omega
  rw [counted, countDown_of_pos (Nat.zero_lt_of_lt h), if_neg hne]

theorem counted_of_eq_one (h : t.cnt = 1) : counted last t = last { t with cnt := 0 } := by
  have hdown : countDown t.cnt = 0 := by rw [h]; rfl
  rw [counted, hdown, if_pos rfl]

theorem exec_lsh_of_busy (h : s.status.busy = true) : exec (.lsh k p) s = lshStep s := exec_of_busy h

theorem exec_rsh_of_busy (h : s.status.busy = true) : exec (.rsh k p) s = rshStep s := exec_of_busy h

theorem lshStep_lsSkip (hphase : s.phase = .lsSkip) :
    lshStep s = .next (s.afterInRead (fun _ => counted afterSkip) State.shortInput) := by
  rw [lshStep, hphase]
  rfl

theorem lshStep_lsLoad (hphase : s.phase = .lsLoad) :
    lshStep s = .next (s.afterInRead (fun x t => lshNext { t with carry := x, cnt := t.len - t.bo - 1 })
      State.shortInput) := by
  rw [lshStep, hphase]

theorem lshStep_lsIn (hphase : s.phase = .lsIn) :
    lshStep s = .next (s.afterInRead
      (fun x t => { t with
        hold := funnel t.carry x (8 - t.bits), carry := x, cnt := countDown t.cnt, phase := .lsOut })
      State.shortInput) := by
  rw [lshStep, hphase]

theorem lshStep_lsOut (hphase : s.phase = .lsOut) : lshStep s = .next (s.afterOutWrite s.hold lshNext) := by
  rw [lshStep, hphase]

/-- LS_TAIL goes on to the zero bytes, or to the end when there are none. -/
def lshTail (t : State) : State :=
  if t.bo = 0 then { t with cnt := t.bo }.finish .none none else { t with cnt := t.bo, phase := .lsZero }

theorem lshStep_lsTail (hphase : s.phase = .lsTail) :
    lshStep s = .next (s.afterOutWrite (funnel s.carry 0x00 (8 - s.bits)) lshTail) := by
  rw [lshStep, hphase]
  rfl

theorem lshStep_lsZero (hphase : s.phase = .lsZero) :
    lshStep s = .next (s.afterOutWrite 0x00 (counted (State.finish .none none))) := by
  rw [lshStep, hphase]
  rfl

/-! ### The steps of RSH (rule R127), one equation a phase -/

theorem rshStep_rsZero (hphase : s.phase = .rsZero) :
    rshStep s = .next (s.afterOutWrite 0x00 (counted afterLeadingZeros)) := by
  rw [rshStep, hphase]
  rfl

theorem rshStep_rsIn (hphase : s.phase = .rsIn) :
    rshStep s = .next (s.afterInRead
      (fun x t => { t with hold := funnel t.carry x t.bits, carry := x, cnt := countDown t.cnt, phase := .rsOut })
      State.shortInput) := by
  rw [rshStep, hphase]

theorem rshStep_rsOut (hphase : s.phase = .rsOut) : rshStep s = .next (s.afterOutWrite s.hold rshNext) := by
  rw [rshStep, hphase]
  rfl

theorem rshStep_rsDrain (hphase : s.phase = .rsDrain) :
    rshStep s = .next (s.afterInRead (fun _ => counted (State.finish .none none)) State.shortInput) := by
  rw [rshStep, hphase]
  rfl

/-! ### The branches after a transaction, by CNT, bo and L -/

theorem afterSkip_of_le (h : t.len.toNat ≤ t.bo.toNat) : afterSkip t = { t with cnt := t.len, phase := .lsZero } :=
  if_pos (BitVec.le_def.mpr h)

theorem afterSkip_of_lt (h : t.bo.toNat < t.len.toNat) : afterSkip t = { t with phase := .lsLoad } :=
  if_neg (mt BitVec.le_def.mp (Nat.not_le_of_lt h))

theorem lshNext_of_zero (h : t.cnt = 0) : lshNext t = { t with phase := .lsTail } := if_pos h

theorem lshNext_of_ne_zero (h : t.cnt ≠ 0) : lshNext t = { t with phase := .lsIn } := if_neg h

theorem afterLeadingZeros_of_le (h : t.len.toNat ≤ t.bo.toNat) :
    afterLeadingZeros t = { t with cnt := t.len, phase := .rsDrain } :=
  if_pos (BitVec.le_def.mpr h)

theorem afterLeadingZeros_of_lt (h : t.bo.toNat < t.len.toNat) :
    afterLeadingZeros t = { t with carry := 0x00, cnt := t.len - t.bo, phase := .rsIn } :=
  if_neg (mt BitVec.le_def.mp (Nat.not_le_of_lt h))

theorem rshNext_of_ne_zero (h : t.cnt ≠ 0) : rshNext t = { t with phase := .rsIn } := if_pos h

theorem rshNext_of_zero (h : t.cnt = 0) :
    rshNext t = if t.bo ≠ 0 then { t with cnt := t.bo, phase := .rsDrain } else t.finish .none none :=
  if_neg (not_not.mpr h)

end

/-- Settles O25: `funnel_toNat`, `getLsbD_funnel`, and the steps at LS_IN and RS_IN. -/
theorem funnelSelectsBits : Obligations.FunnelSelectsBits := by
  refine ⟨fun hi lo r _ => ⟨funnel_toNat hi lo r, fun j hj => getLsbD_funnel hi lo hj⟩,
    fun hi lo => ⟨funnel_zero hi lo, funnel_eight hi lo⟩,
    fun k x p s rest hbusy hin => ⟨fun hphase => ?_, fun hphase => ?_⟩⟩
  · rw [exec_lsh_of_busy hbusy, lshStep_lsIn hphase, State.afterInRead_byte hin]
    exact ⟨_, rfl, rfl⟩
  · rw [exec_rsh_of_busy hbusy, rshStep_rsIn hphase, State.afterInRead_byte hin]
    exact ⟨_, rfl, rfl⟩

/-! ### A stream of no bytes (rule R129) -/

/-- Settles O11: the whole-stream shifts O56 and O57 on no bytes. -/
theorem zeroLengthShiftFinishesAtOnce : Obligations.ZeroLengthShiftFinishesAtOnce := by
  intro w i s hready hd hi hlen
  have hlen' : s.len.toNat = ([] : List Byte).length := by rw [hlen]; rfl
  cases i with
  | lsh k p => simpa [leftShift_nil] using lshShiftsWholeStream w k p s [] _ _ hready hd hlen' rfl rfl
  | rsh k p => simpa [rightShift_nil] using rshShiftsWholeStream w k p s [] _ _ hready hd hlen' rfl rfl
  | orb | andb | xorb | not | orf | andf | xorf => cases hi

/-! ### The steps of LSH at a byte and at `Ok` -/

/-- Settles O27: the byte is taken, and each phase goes on by CNT, bo and L; the byte of LS_IN is that of rule R114. -/
theorem lshInputSteps : Obligations.LshInputSteps := by
  intro k x p s rest hbusy hin t
  rw [exec_lsh_of_busy hbusy]
  refine ⟨fun hphase hcnt => ?_, fun hphase hcnt hle => ?_, fun hphase hcnt hlt => ?_, fun hphase hlt => ?_,
    fun hphase heq => ?_, fun hphase hcnt => ?_⟩
  · rw [lshStep_lsSkip hphase, State.afterInRead_byte hin]
    exact congrArg Host.Outcome.next (counted_of_one_lt hcnt)
  · rw [lshStep_lsSkip hphase, State.afterInRead_byte hin]
    exact congrArg Host.Outcome.next ((counted_of_eq_one (t := t) hcnt).trans (afterSkip_of_le hle))
  · rw [lshStep_lsSkip hphase, State.afterInRead_byte hin]
    exact congrArg Host.Outcome.next ((counted_of_eq_one (t := t) hcnt).trans (afterSkip_of_lt hlt))
  · have hne : s.len - s.bo - 1 ≠ 0 := by bv_omega
    rw [lshStep_lsLoad hphase, State.afterInRead_byte hin]
    exact congrArg Host.Outcome.next (lshNext_of_ne_zero hne)
  · have hzero : s.len - s.bo - 1 = 0 := by bv_omega
    rw [lshStep_lsLoad hphase, State.afterInRead_byte hin, ← hzero]
    exact congrArg Host.Outcome.next (lshNext_of_zero hzero)
  · rw [lshStep_lsIn hphase, State.afterInRead_byte hin, ← s.bits_eq, ← funnel_eight_sub s.carry x s.bits_lt.le,
      ← countDown_of_pos hcnt]
    rfl

/-- Settles O28: the byte is written, and each phase goes on by CNT and bo; the byte of LS_TAIL is that of rule R114
with a zero byte after the last. -/
theorem lshOutputSteps : Obligations.LshOutputSteps := by
  intro k p s rest hbusy hout t tail
  have htail : funnel s.carry 0x00 (8 - s.bits) = tail := by
    rw [funnel_eight_sub s.carry 0x00 s.bits_lt.le, s.bits_eq]
    simp [tail]
  rw [exec_lsh_of_busy hbusy]
  refine ⟨fun hphase hcnt => ?_, fun hphase hcnt => ?_, fun hphase hbo => ?_, fun hphase hbo => ?_,
    fun hphase hcnt => ?_, fun hphase hcnt => ?_⟩
  · rw [lshStep_lsOut hphase, State.afterOutWrite_ok hout]
    exact congrArg Host.Outcome.next (lshNext_of_ne_zero hcnt)
  · rw [lshStep_lsOut hphase, State.afterOutWrite_ok hout]
    exact congrArg Host.Outcome.next (lshNext_of_zero hcnt)
  · rw [lshStep_lsTail hphase, State.afterOutWrite_ok hout, htail]
    exact congrArg Host.Outcome.next (if_neg hbo)
  · rw [lshStep_lsTail hphase, State.afterOutWrite_ok hout, htail]
    exact ⟨_, congrArg Host.Outcome.next (if_pos hbo), rfl⟩
  · rw [lshStep_lsZero hphase, State.afterOutWrite_ok hout]
    exact congrArg Host.Outcome.next (counted_of_one_lt hcnt)
  · rw [lshStep_lsZero hphase, State.afterOutWrite_ok hout]
    exact ⟨_, congrArg Host.Outcome.next (counted_of_eq_one hcnt), rfl⟩

/-! ### The steps of RSH at a byte and at `Ok` -/

/-- Settles O29: the byte is taken, and each phase goes on by CNT; the byte of RS_IN is that of rule R115. -/
theorem rshInputSteps : Obligations.RshInputSteps := by
  intro k x p s rest hbusy hin t
  rw [exec_rsh_of_busy hbusy]
  refine ⟨fun hphase hcnt => ?_, fun hphase hcnt => ?_, fun hphase hcnt => ?_⟩
  · rw [rshStep_rsIn hphase, State.afterInRead_byte hin, ← s.bits_eq, ← funnel_eq_or s.carry x s.bits_lt.le,
      ← countDown_of_pos hcnt]
    rfl
  · rw [rshStep_rsDrain hphase, State.afterInRead_byte hin]
    exact congrArg Host.Outcome.next (counted_of_one_lt hcnt)
  · rw [rshStep_rsDrain hphase, State.afterInRead_byte hin]
    exact ⟨_, congrArg Host.Outcome.next (counted_of_eq_one hcnt), rfl⟩

/-- Settles O30: the byte is written, and each phase goes on by CNT, bo and L. -/
theorem rshOutputSteps : Obligations.RshOutputSteps := by
  intro k p s rest hbusy hout t
  rw [exec_rsh_of_busy hbusy]
  refine ⟨fun hphase hcnt => ?_, fun hphase hcnt hle => ?_, fun hphase hcnt hlt => ?_, fun hphase hcnt => ?_,
    fun hphase hcnt hbo => ?_, fun hphase hcnt hbo => ?_⟩
  · rw [rshStep_rsZero hphase, State.afterOutWrite_ok hout]
    exact congrArg Host.Outcome.next (counted_of_one_lt hcnt)
  · rw [rshStep_rsZero hphase, State.afterOutWrite_ok hout]
    exact congrArg Host.Outcome.next ((counted_of_eq_one (t := t 0x00) hcnt).trans (afterLeadingZeros_of_le hle))
  · rw [rshStep_rsZero hphase, State.afterOutWrite_ok hout]
    exact congrArg Host.Outcome.next ((counted_of_eq_one (t := t 0x00) hcnt).trans (afterLeadingZeros_of_lt hlt))
  · rw [rshStep_rsOut hphase, State.afterOutWrite_ok hout]
    exact congrArg Host.Outcome.next (rshNext_of_ne_zero hcnt)
  · rw [rshStep_rsOut hphase, State.afterOutWrite_ok hout]
    exact congrArg Host.Outcome.next ((rshNext_of_zero (t := t s.hold) hcnt).trans (if_pos hbo))
  · rw [rshStep_rsOut hphase, State.afterOutWrite_ok hout]
    have hnext := (rshNext_of_zero (t := t s.hold) hcnt).trans (if_neg (not_not.mpr hbo))
    exact ⟨_, congrArg Host.Outcome.next hnext, rfl⟩

/-! ### The other answers (rules R130 to R132) -/

section
variable {s : State} {i : Instr}

/-- A shift in an input phase reads, and an early end of the input is `short()`. -/
theorem exec_shift_of_input_phase (hi : isShift i = true) (hbusy : s.status.busy = true)
    (hused : phaseUsedBy s.phase i = true) (hphase : s.phase ∈ [.lsSkip, .lsLoad, .lsIn, .rsIn, .rsDrain]) :
    ∃ onByte, exec i s = .next (s.afterInRead onByte State.shortInput) := by
  rw [exec_of_busy hbusy]
  simp only [List.mem_cons, List.not_mem_nil, or_false] at hphase
  cases i with
  | lsh =>
    obtain h | h | h | h | h := hphase
    · exact ⟨_, lshStep_lsSkip h⟩
    · exact ⟨_, lshStep_lsLoad h⟩
    · exact ⟨_, lshStep_lsIn h⟩
    all_goals cases h ▸ hused
  | rsh =>
    obtain h | h | h | h | h := hphase
    case inr.inr.inr.inl => exact ⟨_, rshStep_rsIn h⟩
    case inr.inr.inr.inr => exact ⟨_, rshStep_rsDrain h⟩
    all_goals cases h ▸ hused
  | orb | andb | xorb | not | orf | andf | xorf => cases hi

/-- A shift in an output phase writes. -/
theorem exec_shift_of_output_phase (hi : isShift i = true) (hbusy : s.status.busy = true)
    (hused : phaseUsedBy s.phase i = true) (hphase : s.phase ∈ [.lsOut, .lsTail, .lsZero, .rsZero, .rsOut]) :
    ∃ v onOk, exec i s = .next (s.afterOutWrite v onOk) := by
  rw [exec_of_busy hbusy]
  simp only [List.mem_cons, List.not_mem_nil, or_false] at hphase
  cases i with
  | lsh =>
    obtain h | h | h | h | h := hphase
    · exact ⟨_, _, lshStep_lsOut h⟩
    · exact ⟨_, _, lshStep_lsTail h⟩
    · exact ⟨_, _, lshStep_lsZero h⟩
    all_goals cases h ▸ hused
  | rsh =>
    obtain h | h | h | h | h := hphase
    case inr.inr.inr.inl => exact ⟨_, _, rshStep_rsZero h⟩
    case inr.inr.inr.inr => exact ⟨_, _, rshStep_rsOut h⟩
    all_goals cases h ▸ hused
  | orb | andb | xorb | not | orf | andf | xorf => cases hi

end

/-- Settles O31: `Eof` leads straight to `short()`. -/
theorem shiftInputEndsShort : Obligations.ShiftInputEndsShort := by
  intro i s rest hi hbusy hused hphase heof
  obtain ⟨onByte, hexec⟩ := exec_shift_of_input_phase hi hbusy hused hphase
  rw [hexec, State.afterInRead_eof heof]
  exact endsWith_finish ..

/-- Settles O32: `Err` leads straight to `finish`. -/
theorem shiftInputFailure : Obligations.ShiftInputFailure := by
  intro i s c rest hi hbusy hused hphase herr
  obtain ⟨onByte, hexec⟩ := exec_shift_of_input_phase hi hbusy hused hphase
  rw [hexec, State.afterInRead_err herr]
  exact endsWith_finish ..

/-- Settles O33: `Err` leads straight to `finish`, and the byte offered is nowhere kept. -/
theorem shiftOutputFailure : Obligations.ShiftOutputFailure := by
  intro i s c rest hi hbusy hused hphase herr
  obtain ⟨v, onOk, hexec⟩ := exec_shift_of_output_phase hi hbusy hused hphase
  rw [hexec, State.afterOutWrite_err herr]
  exact endsWith_finish ..

end Sys2Proof.Machine

/-! Two shifts in one direction after each other (rules R117, R118, R135, R137). -/

namespace Sys2Proof.Machine

/-! ### Shifts of a shifted stream (rules R12, R117, R118) -/

theorem length_streamBytes (n v : Nat) : (streamBytes n v).length = n := by simp [streamBytes]

/-- The bytes of a number hold its low `8 * n` bits. -/
theorem streamValue_streamBytes (n v : Nat) : streamValue (streamBytes n v) = v % 256 ^ n := by
  induction n with
  | zero => rw [Nat.pow_zero, Nat.mod_one]; rfl
  | succ n ih =>
    have hsplit : v % 256 ^ (n + 1) = v % 256 ^ n + 256 ^ n * (v / 256 ^ n % 2 ^ 8) := Nat.mod_pow_succ
    rw [streamBytes_succ, streamValue, length_streamBytes, ih, BitVec.toNat_ofNat, hsplit, Nat.mul_comm, Nat.add_comm]

theorem leftShift_leftShift (bs : List Byte) (a b : Nat) : leftShift (leftShift bs a) b = leftShift bs (a + b) := by
  unfold leftShift
  rw [length_streamBytes, streamValue_streamBytes, two_pow_eight_mul, Nat.mod_mod, Nat.mod_mul_mod, Nat.mul_assoc,
    ← Nat.pow_add]

theorem rightShift_rightShift (bs : List Byte) (a b : Nat) :
    rightShift (rightShift bs a) b = rightShift bs (a + b) := by
  have hlt : streamValue bs / 2 ^ a < 256 ^ bs.length := Nat.lt_of_le_of_lt (Nat.div_le_self ..) (streamValue_lt bs)
  unfold rightShift
  rw [length_streamBytes, streamValue_streamBytes, Nat.mod_eq_of_lt hlt, Nat.div_div_eq_div_mul, ← Nat.pow_add]

/-! ### The direction of a shift command (rule R135) -/

/-- What a shift makes of a whole stream, by the amount (rules R117, R118); `none` for the other commands. -/
def shiftFunction : Instr → Option (List Byte → Nat → List Byte)
  | .lsh _ _ => some leftShift
  | .rsh _ _ => some rightShift
  | _ => none

section
variable {i : Instr} {f : List Byte → Nat → List Byte}

/-- The function of a shift keeps the length, and adds the amounts of two shifts. -/
theorem exists_shiftFunction (hi : isShift i = true) :
    ∃ f, shiftFunction i = some f ∧ (∀ bs a, (f bs a).length = bs.length)
      ∧ ∀ bs a b, f (f bs a) b = f bs (a + b) := by
  cases i with
  | lsh => exact ⟨_, rfl, fun _ _ => length_streamBytes .., leftShift_leftShift⟩
  | rsh => exact ⟨_, rfl, fun _ _ => length_streamBytes .., rightShift_rightShift⟩
  | orb | andb | xorb | not | orf | andf | xorf => cases hi

/-- What the run of an issued shift has written on a whole input (rule R135). -/
theorem written_of_issued_shift {w : Word} {s t : State} {bs : List Byte} {rest : List ReadAnswer} {oks : List Ack}
    (hf : shiftFunction i = some f) (hd : decode w = some i) (hready : s.readyToIssue w)
    (hlen : s.len.toNat = bs.length) (hin : s.input.answers = bytesThen bs rest)
    (hout : s.output.answers = oksThen bs.length oks) (hrun : stepN (2 * bs.length + 1) s = .next t) :
    t.output.written = s.output.written ++ f bs s.shamt.toNat := by
  have hwritten {inp : InPort} {opd : OperandPort} {out : OutPort}
      (h : runsTo (2 * bs.length + 1) s (s.ran w .none none inp opd out)) : t.output.written = out.written := by
    obtain ⟨u, hu, hobs⟩ := h
    obtain rfl : t = u := Host.Outcome.next.inj (hrun.symm.trans hu)
    exact congrArg (·.output.written) hobs
  cases i with
  | lsh k p => cases hf; exact hwritten (lshShiftsWholeStream w k p s bs rest oks hready hd hlen hin hout)
  | rsh k p => cases hf; exact hwritten (rshShiftsWholeStream w k p s bs rest oks hready hd hlen hin hout)
  | orb | andb | xorb | not | orf | andf | xorf => cases hf

end

/-- Settles O59: each run writes the shift of its input (O56, O57), and two shifts add their amounts. -/
theorem shiftsCompose : Obligations.ShiftsCompose := by
  intro i w s1 s2 s3 t1 t2 t3 bs ys rest1 rest2 rest3 oks1 oks2 oks3 hi hd hready1 hready2 hready3 hlen1 hlen2 hlen3
    hshamt hin1 hout1 hrun1 hys hin2 hout2 hrun2 hin3 hout3 hrun3
  obtain ⟨f, hf, hlength, hadd⟩ := exists_shiftFunction hi
  have ht1 := written_of_issued_shift hf hd hready1 hlen1 hin1 hout1 hrun1
  obtain rfl : ys = f bs s1.shamt.toNat := List.append_cancel_left (hys.symm.trans ht1)
  rw [← hlength bs s1.shamt.toNat] at hlen2 hout2 hrun2
  have ht2 := written_of_issued_shift hf hd hready2 hlen2 hin2 hout2 hrun2
  have ht3 := written_of_issued_shift hf hd hready3 hlen3 hin3 hout3 hrun3
  rw [hadd, ← hshamt] at ht2
  exact ⟨_, ht2, ht3⟩

end Sys2Proof.Machine

/-! The end of a running shift whose ports always answer: how many bytes it has still to read and to write, and that
each step takes one of them (rules R125, R127, R170 to R172). -/

namespace Sys2Proof.Machine

/-! ### What a shift has before it -/

/-- How many bytes a running shift reads from here on, if its ports give no end and no error (rules R125, R127). -/
def State.readsLeft (s : State) : Nat :=
  match s.phase with
  | .lsSkip => s.cnt.toNat + (s.len.toNat - s.bo.toNat)
  | .lsLoad => s.len.toNat - s.bo.toNat
  | .lsIn | .lsOut | .rsDrain => s.cnt.toNat
  | .rsZero => s.len.toNat
  | .rsIn | .rsOut => s.cnt.toNat + s.bo.toNat
  | _ => 0

/-- How many bytes a running shift writes from here on, if its ports give no end and no error (rules R125, R127). -/
def State.writesLeft (s : State) : Nat :=
  match s.phase with
  | .lsSkip | .lsLoad => s.len.toNat
  | .lsIn => s.cnt.toNat + s.bo.toNat + 1
  | .lsOut => s.cnt.toNat + s.bo.toNat + 2
  | .lsTail => s.bo.toNat + 1
  | .lsZero | .rsIn => s.cnt.toNat
  | .rsZero => s.cnt.toNat + (s.len.toNat - s.bo.toNat)
  | .rsOut => s.cnt.toNat + 1
  | _ => 0

/-- A shift never has more than LEN bytes to read or to write. -/
theorem State.left_le_len {s : State} (h : s.countInRange) :
    s.readsLeft ≤ s.len.toNat ∧ s.writesLeft ≤ s.len.toNat := by
  unfold State.countInRange at h
  unfold State.readsLeft State.writesLeft
  cases hp : s.phase
  all_goals
    simp only [hp] at h ⊢
    omega

/-- The ports have an answer for each byte that the shift has to read or to write. -/
structure State.Supplied (s : State) : Prop where
  reads : s.readsLeft ≤ s.input.answers.length
  writes : s.writesLeft ≤ s.output.answers.length

/-- `t` is supplied, and has fewer bytes to read and write than `s`. -/
structure State.Nears (s t : State) : Prop where
  supplied : t.Supplied
  less : t.readsLeft + t.writesLeft < s.readsLeft + s.writesLeft

/-- From the ports of `u` on, `t` has at most `m` bytes to read and `n` to write. -/
structure State.Leaves (u : State) (m n : Nat) (t : State) : Prop where
  input : t.input = u.input
  output : t.output = u.output
  reads : t.readsLeft ≤ m
  writes : t.writesLeft ≤ n

section
variable {s t u : State} {m n : Nat} {i : Instr} {k : Byte} {q : BitVec 3} {last onOk : State → State}
  {onByte : Byte → State → State}

/-- An ended command has nothing to read or to write. -/
theorem State.leaves_finish (m n : Nat) (tag : ResultTag) (c : Option Word) (x : Size) (u : State) :
    u.Leaves m n ({ u with cnt := x }.finish tag c) :=
  ⟨rfl, rfl, Nat.zero_le m, Nat.zero_le n⟩

theorem State.leaves_shortInput (m n : Nat) (u : State) : u.Leaves m n u.shortInput :=
  ⟨rfl, rfl, Nat.zero_le m, Nat.zero_le n⟩

theorem State.Leaves.nears (h : u.Leaves m n t) (hm : m ≤ u.input.answers.length) (hn : n ≤ u.output.answers.length)
    (hless : m + n < s.readsLeft + s.writesLeft) : s.Nears t where
  supplied := ⟨h.input ▸ h.reads.trans hm, h.output ▸ h.writes.trans hn⟩
  less := lt_of_le_of_lt (Nat.add_le_add h.reads h.writes) hless

/-- A step that reads takes one of the bytes to read. -/
theorem State.Supplied.afterInRead (hs : s.Supplied) (hpos : 0 < s.readsLeft)
    (byte : ∀ x inp, State.Leaves { s with input := inp } (s.readsLeft - 1) s.writesLeft
      (onByte x { s with input := inp })) :
    s.Nears (s.afterInRead onByte State.shortInput) := by
  have hreads := hs.reads
  have taken {t : State} {a : ReadAnswer} {rest : List ReadAnswer} {pos : Nat} (hin : s.input.answers = a :: rest)
      (h : State.Leaves { s with input := ⟨rest, pos⟩ } (s.readsLeft - 1) s.writesLeft t) : s.Nears t := by
    rw [hin, List.length_cons] at hreads
    exact h.nears (Nat.sub_le_of_le_add hreads) hs.writes (by omega)
  rcases s.afterInRead_cases onByte State.shortInput with ⟨h, -⟩ | ⟨v, rest, h, e⟩ | ⟨rest, h, e⟩ | ⟨c, rest, h, e⟩
  · rw [h, List.length_nil] at hreads
    omega
  · exact e ▸ taken h (byte ..)
  · exact e ▸ taken h (State.leaves_shortInput ..)
  · exact e ▸ taken h (State.leaves_finish _ _ _ _ s.cnt _)

/-- A step that writes takes one of the bytes to write. -/
theorem State.Supplied.afterOutWrite {v : Byte} (hs : s.Supplied) (hpos : 0 < s.writesLeft)
    (ok : ∀ out, State.Leaves { s with output := out } s.readsLeft (s.writesLeft - 1) (onOk { s with output := out })) :
    s.Nears (s.afterOutWrite v onOk) := by
  have hwrites := hs.writes
  have taken {t : State} {a : Ack} {rest : List Ack} {wr : List Byte} (hout : s.output.answers = a :: rest)
      (h : State.Leaves { s with output := ⟨rest, wr⟩ } s.readsLeft (s.writesLeft - 1) t) : s.Nears t := by
    rw [hout, List.length_cons] at hwrites
    exact h.nears hs.reads (Nat.sub_le_of_le_add hwrites) (by omega)
  rcases s.afterOutWrite_cases v onOk with ⟨h, -⟩ | ⟨rest, h, e⟩ | ⟨c, rest, h, e⟩
  · rw [h, List.length_nil] at hwrites
    omega
  · exact e ▸ taken h (ok _)
  · exact e ▸ taken h (State.leaves_finish _ _ _ _ s.cnt _)

/-- One byte less in a counted phase that reads. -/
theorem State.left_of_read (hp : s.phase = .lsSkip ∨ s.phase = .rsDrain) {c : Size} (hc : c.toNat + 1 = s.cnt.toNat) :
    State.readsLeft { s with cnt := c } + 1 = s.readsLeft ∧ State.writesLeft { s with cnt := c } = s.writesLeft := by
  unfold State.readsLeft State.writesLeft
  rcases hp with hp | hp
  · simp only [hp, ← hc]
    exact ⟨Nat.add_right_comm .., rfl⟩
  · simp only [hp, ← hc, and_self]

/-- One byte less in a counted phase that writes. -/
theorem State.left_of_write (hp : s.phase = .lsZero ∨ s.phase = .rsZero) {c : Size} (hc : c.toNat + 1 = s.cnt.toNat) :
    State.readsLeft { s with cnt := c } = s.readsLeft ∧ State.writesLeft { s with cnt := c } + 1 = s.writesLeft := by
  unfold State.readsLeft State.writesLeft
  rcases hp with hp | hp
  · simp only [hp, ← hc, and_self]
  · simp only [hp, ← hc]
    exact ⟨rfl, Nat.add_right_comm ..⟩

/-- A counted phase goes on with one byte less, or after its last byte as `last` says. -/
theorem leaves_counted (hpos : 0 < u.cnt.toNat) (hlast : u.Leaves m n (last { u with cnt := 0 }))
    (hnext : ∀ c : Size, c.toNat + 1 = u.cnt.toNat →
      State.readsLeft { u with cnt := c } ≤ m ∧ State.writesLeft { u with cnt := c } ≤ n) :
    u.Leaves m n (counted last u) := by
  by_cases hone : u.cnt = 1
  · rw [counted_of_eq_one hone]
    exact hlast
  · have hlt : 1 < u.cnt.toNat := by bv_omega
    obtain ⟨hreads, hwrites⟩ := hnext (u.cnt - 1) (by bv_omega)
    rw [counted_of_one_lt hlt]
    exact ⟨rfl, rfl, hreads, hwrites⟩

theorem leaves_counted_read {inp : InPort} (hp : s.phase = .lsSkip ∨ s.phase = .rsDrain) (hpos : 0 < s.cnt.toNat)
    (hlast : State.Leaves { s with input := inp } (s.readsLeft - 1) s.writesLeft
      (last { s with input := inp, cnt := 0 })) :
    State.Leaves { s with input := inp } (s.readsLeft - 1) s.writesLeft (counted last { s with input := inp }) :=
  leaves_counted hpos hlast fun _ hc =>
    have ⟨hreads, hwrites⟩ := State.left_of_read hp hc
    ⟨Nat.le_sub_one_of_lt hreads.le, hwrites.le⟩

theorem leaves_counted_write {out : OutPort} (hp : s.phase = .lsZero ∨ s.phase = .rsZero) (hpos : 0 < s.cnt.toNat)
    (hlast : State.Leaves { s with output := out } s.readsLeft (s.writesLeft - 1)
      (last { s with output := out, cnt := 0 })) :
    State.Leaves { s with output := out } s.readsLeft (s.writesLeft - 1) (counted last { s with output := out }) :=
  leaves_counted hpos hlast fun _ hc =>
    have ⟨hreads, hwrites⟩ := State.left_of_write hp hc
    ⟨hreads.le, Nat.le_sub_one_of_lt hwrites.le⟩

/-! ### The steps of LSH and RSH -/

theorem leaves_afterSkip (x : Size) (h : u.len.toNat - u.bo.toNat ≤ m) (hn : u.len.toNat ≤ n) :
    u.Leaves m n (afterSkip { u with cnt := x }) := by
  unfold afterSkip
  split
  · exact ⟨rfl, rfl, Nat.zero_le m, hn⟩
  · exact ⟨rfl, rfl, h, hn⟩

theorem leaves_lshNext (x : Byte) (c : Size) (h : c.toNat ≤ m) (hn : c.toNat + u.bo.toNat + 1 ≤ n) :
    u.Leaves m n (lshNext { u with carry := x, cnt := c }) := by
  unfold lshNext
  split
  · exact ⟨rfl, rfl, Nat.zero_le m, (Nat.add_le_add_right (Nat.le_add_left ..) 1).trans hn⟩
  · exact ⟨rfl, rfl, h, hn⟩

theorem leaves_lshTail (hn : u.bo.toNat ≤ n) : u.Leaves m n (lshTail u) := by
  unfold lshTail
  split
  · exact State.leaves_finish ..
  · exact ⟨rfl, rfl, Nat.zero_le m, hn⟩

theorem leaves_afterLeadingZeros (x : Size) (hm : u.len.toNat ≤ m) (hn : u.len.toNat - u.bo.toNat ≤ n) :
    u.Leaves m n (afterLeadingZeros { u with cnt := x }) := by
  unfold afterLeadingZeros
  split
  · exact ⟨rfl, rfl, hm, Nat.zero_le n⟩
  next hlt =>
    have hlt : u.bo.toNat < u.len.toNat := Nat.lt_of_not_le hlt
    have hcnt : (u.len - u.bo).toNat = u.len.toNat - u.bo.toNat := BitVec.toNat_sub_of_le hlt.le
    have hreads : (u.len - u.bo).toNat + u.bo.toNat ≤ m := by omega
    exact ⟨rfl, rfl, hreads, hcnt.trans_le hn⟩

theorem leaves_rshNext (hm : u.cnt.toNat + u.bo.toNat ≤ m) (hn : u.cnt.toNat ≤ n) : u.Leaves m n (rshNext u) := by
  unfold rshNext
  split_ifs
  · exact ⟨rfl, rfl, hm, hn⟩
  · exact ⟨rfl, rfl, (Nat.le_add_left ..).trans hm, Nat.zero_le n⟩
  · exact State.leaves_finish m n _ _ u.cnt u

/-- Every step of LSH takes a byte to read or to write. -/
theorem lshStep_nears (hl : s.Live (.lsh k q)) (hs : s.Supplied) (h : lshStep s = .next t) : s.Nears t := by
  have hcount := hl.count
  rw [State.countInRange] at hcount
  cases hp : s.phase with
  | lsSkip =>
    have hreads : s.readsLeft = s.cnt.toNat + (s.len.toNat - s.bo.toNat) := by rw [State.readsLeft, hp]
    have hwrites : s.writesLeft = s.len.toNat := by rw [State.writesLeft, hp]
    rw [hp] at hcount
    cases (lshStep_lsSkip hp).symm.trans h
    refine hs.afterInRead (by omega) fun x inp => leaves_counted_read (.inl hp) hcount.1 ?_
    exact leaves_afterSkip 0 (show s.len.toNat - s.bo.toNat ≤ _ by omega) hwrites.ge
  | lsLoad =>
    have hreads : s.readsLeft = s.len.toNat - s.bo.toNat := by rw [State.readsLeft, hp]
    have hwrites : s.writesLeft = s.len.toNat := by rw [State.writesLeft, hp]
    rw [hp] at hcount
    have hcnt : (s.len - s.bo - 1).toNat + s.bo.toNat + 1 = s.len.toNat := by bv_omega
    cases (lshStep_lsLoad hp).symm.trans h
    refine hs.afterInRead (by omega) fun x inp => leaves_lshNext x _ ?_ (hcnt.trans hwrites.symm).le
    show (s.len - s.bo - 1).toNat ≤ _
    omega
  | lsIn =>
    have hreads : s.readsLeft = s.cnt.toNat := by rw [State.readsLeft, hp]
    have hwrites : s.writesLeft = s.cnt.toNat + s.bo.toNat + 1 := by rw [State.writesLeft, hp]
    rw [hp] at hcount
    have hdown := countDown_toNat s.cnt
    have hdone : (countDown s.cnt).toNat + s.bo.toNat + 2 ≤ s.writesLeft := by omega
    cases (lshStep_lsIn hp).symm.trans h
    exact hs.afterInRead (by omega) fun x inp => ⟨rfl, rfl, hreads ▸ hdown.le, hdone⟩
  | lsOut =>
    have hreads : s.readsLeft = s.cnt.toNat := by rw [State.readsLeft, hp]
    have hwrites : s.writesLeft = s.cnt.toNat + s.bo.toNat + 2 := by rw [State.writesLeft, hp]
    cases (lshStep_lsOut hp).symm.trans h
    refine hs.afterOutWrite (by omega) fun out => leaves_lshNext s.carry s.cnt hreads.ge ?_
    show s.cnt.toNat + s.bo.toNat + 1 ≤ _
    omega
  | lsTail =>
    have hwrites : s.writesLeft = s.bo.toNat + 1 := by rw [State.writesLeft, hp]
    cases (lshStep_lsTail hp).symm.trans h
    exact hs.afterOutWrite (by omega) fun out => leaves_lshTail (hwrites ▸ le_rfl)
  | lsZero =>
    have hwrites : s.writesLeft = s.cnt.toNat := by rw [State.writesLeft, hp]
    rw [hp] at hcount
    cases (lshStep_lsZero hp).symm.trans h
    exact hs.afterOutWrite (by omega) fun out => leaves_counted_write (.inl hp) hcount.1 (State.leaves_finish ..)
  | idle | bIn | bOut | fIn | fOp | fRew | fOut | rsZero | rsIn | rsOut | rsDrain =>
    have hused := hl.used
    rw [hp] at hused
    cases hused

/-- Every step of RSH takes a byte to read or to write. -/
theorem rshStep_nears (hl : s.Live (.rsh k q)) (hs : s.Supplied) (h : rshStep s = .next t) : s.Nears t := by
  have hcount := hl.count
  rw [State.countInRange] at hcount
  cases hp : s.phase with
  | rsZero =>
    have hreads : s.readsLeft = s.len.toNat := by rw [State.readsLeft, hp]
    have hwrites : s.writesLeft = s.cnt.toNat + (s.len.toNat - s.bo.toNat) := by rw [State.writesLeft, hp]
    rw [hp] at hcount
    cases (rshStep_rsZero hp).symm.trans h
    refine hs.afterOutWrite (by omega) fun out => leaves_counted_write (.inr hp) hcount.1 ?_
    exact leaves_afterLeadingZeros 0 hreads.ge (show s.len.toNat - s.bo.toNat ≤ _ by omega)
  | rsIn =>
    have hreads : s.readsLeft = s.cnt.toNat + s.bo.toNat := by rw [State.readsLeft, hp]
    have hwrites : s.writesLeft = s.cnt.toNat := by rw [State.writesLeft, hp]
    rw [hp] at hcount
    have hdown := countDown_toNat s.cnt
    have hrest : (countDown s.cnt).toNat + s.bo.toNat ≤ s.readsLeft - 1 := by omega
    have hdone : (countDown s.cnt).toNat + 1 ≤ s.writesLeft := by omega
    cases (rshStep_rsIn hp).symm.trans h
    exact hs.afterInRead (by omega) fun x inp => ⟨rfl, rfl, hrest, hdone⟩
  | rsOut =>
    have hreads : s.readsLeft = s.cnt.toNat + s.bo.toNat := by rw [State.readsLeft, hp]
    have hwrites : s.writesLeft = s.cnt.toNat + 1 := by rw [State.writesLeft, hp]
    cases (rshStep_rsOut hp).symm.trans h
    exact hs.afterOutWrite (by omega) fun out => leaves_rshNext hreads.ge (hwrites ▸ le_rfl)
  | rsDrain =>
    have hreads : s.readsLeft = s.cnt.toNat := by rw [State.readsLeft, hp]
    rw [hp] at hcount
    cases (rshStep_rsDrain hp).symm.trans h
    exact hs.afterInRead (by omega) fun x inp => leaves_counted_read (.inr hp) hcount.1 (State.leaves_finish ..)
  | idle | bIn | bOut | fIn | fOp | fRew | fOut | lsSkip | lsLoad | lsIn | lsOut | lsTail | lsZero =>
    have hused := hl.used
    rw [hp] at hused
    cases hused

theorem blockOf_shift_nears (hi : isShift i = true) (hl : s.Live i) (hs : s.Supplied) (h : blockOf i s = .next t) :
    s.Nears t := by
  cases i with
  | lsh => exact lshStep_nears hl hs h
  | rsh => exact rshStep_nears hl hs h
  | orb | andb | xorb | not | orf | andf | xorf => cases hi

/-! ### The whole run (rules R170 to R172) -/

/-- After a block step the command runs on, or it has ended (rule R145). -/
theorem BlockStep.running_or_ended (h : BlockStep i s t) (hrun : s.Running i) :
    t.Running i ∨ (t.status.busy = false ∧ t.status.done = true ∧ t.phase = .idle) := by
  have hframe := h.frame
  cases h with
  | held => exact .inl hrun
  | moves _ transacts resumes =>
    obtain ⟨hstatus, -⟩ | ⟨hphase, hbusy, hdone, -⟩ := resumes.records
    · refine .inl ⟨?_, ?_, ?_⟩
      · rw [hframe]
        exact hrun.agenda
      · rw [hstatus, transacts.frame]
        exact hrun.busy
      · rw [hframe]
        exact hrun.decodes
    · exact .inr ⟨hbusy, hdone, hphase⟩

/-- A running shift with enough answers ends, with at most one step for each byte to read or to write. -/
theorem State.Inv.exists_stepN_ended (hinv : s.Inv) (hrun : s.Running i) (hi : isShift i = true) (hs : s.Supplied) :
    ∃ n t, n ≤ s.readsLeft + s.writesLeft ∧ stepN n s = .next t
      ∧ t.status.busy = false ∧ t.status.done = true ∧ t.phase = .idle := by
  induction hleft : s.readsLeft + s.writesLeft using Nat.strong_induction_on generalizing s with
  | _ m ih =>
    obtain ⟨t, hblock⟩ := blockOf_next_of_used (hinv.phase_used i hrun.decodes hrun.busy)
    have hstep : step s = .next t := by rw [hrun.step_eq, exec_of_busy hrun.busy, hblock]
    obtain ⟨hsupplied, hless⟩ := blockOf_shift_nears hi (hinv.live hrun.busy hrun.decodes) hs hblock
    obtain hrun' | hended := (blockOf_blockStep hblock).running_or_ended hrun
    · obtain ⟨n, u, hn, hu, hended⟩ := ih _ (by omega) (stepKeepsInvariant s t hinv hstep) hrun' hsupplied rfl
      exact ⟨n + 1, u, by omega, (stepN_of_step hstep).trans hu, hended⟩
    · exact ⟨1, t, by omega, stepN_of_step hstep, hended⟩

end

/-- Settles O60: a shift has at most LEN bytes to read and LEN to write, and takes one of them with each step. -/
theorem shiftTerminates : Obligations.ShiftTerminates := by
  intro i s hinv hbusy hd hi hagenda hin hout
  obtain ⟨hreads, hwrites⟩ := State.left_le_len hinv.count
  obtain ⟨n, t, hn, hended⟩ :=
    hinv.exists_stepN_ended ⟨hagenda, hbusy, hd⟩ hi ⟨hreads.trans hin, hwrites.trans hout⟩
  exact ⟨n, t, by omega, hended⟩

end Sys2Proof.Machine

/-! The operand port of the stream forms, answer by answer: its end under each policy, a failed read, and the rewind
under Loop (rules R95 to R102, R142 to R144). -/

namespace Sys2Proof.Machine

/-! ### The operand's end under the policies that do not fill (rules R97 to R99) -/

section
variable {s t : State} {op : Byte → Byte → Byte} {pol : Policy} {rest : List ReadAnswer}

theorem operandEof_error : operandEof op .error t = t.finish .operandEOF none := rfl

theorem operandEof_truncate : operandEof op .truncate t = t.finish .none none := rfl

/-- Under Loop an operand that has given no byte since its start is empty, and looping it is impossible (rule R99). -/
theorem operandEof_loop_of_eq_zero (h : t.oppos = 0) : operandEof op .loop t = t.finish .operandEOF none := if_pos h

/-! ### The answers at F_OP that give no byte (rules R95, R96) -/

theorem fileStep_fOp_eof (hphase : s.phase = .fOp) (hopd : s.operand.answers = .eof :: rest) :
    fileStep op pol s = .next (operandEof op pol { s with operand := { s.operand with answers := rest } }) := by
  rw [fileStep_fOp hphase, State.afterOpRead_eof hopd]

theorem fileStep_fOp_err {c : Option Word} (hphase : s.phase = .fOp) (hopd : s.operand.answers = .err c :: rest) :
    fileStep op pol s
      = .next (State.finish .operandRead c { s with operand := { s.operand with answers := rest } }) := by
  rw [fileStep_fOp hphase, State.afterOpRead_err hopd]

end

/-- Settles O21: `operandEof` by policy, and under Loop by OPPOS. -/
theorem streamFormsResolveOperandEof : Obligations.StreamFormsResolveOperandEof := by
  intro i op pol s rest hf hbusy hphase hopd t
  have hexec : exec i s = .next (operandEof op pol t) := by
    rw [exec_streamForm hf hbusy, fileStep_fOp_eof hphase hopd]
  rw [hexec]
  refine ⟨?error, ?truncate, ?zeroFill, ?oneFill, ?loopEmpty, ?loopAgain⟩
  case error =>
    rintro rfl
    rw [operandEof_error]
    exact endsWith_finish ..
  case truncate =>
    rintro rfl
    rw [operandEof_truncate]
    exact endsWith_finish ..
  case zeroFill | oneFill =>
    rintro rfl
    exact congrArg _ (operandEof_of_fill rfl)
  case loopEmpty =>
    rintro rfl hzero
    rw [operandEof_loop_of_eq_zero (t := t) hzero]
    exact endsWith_finish ..
  case loopAgain =>
    rintro rfl hne
    exact congrArg _ (operandEof_loop_of_ne_zero hne)

/-- Settles O22: no policy has a part in a failed operand read, which leads straight to `finish`. -/
theorem streamFormsOperandFailure : Obligations.StreamFormsOperandFailure := by
  intro i op pol s c rest hf hbusy hphase hopd
  rw [exec_streamForm hf hbusy, fileStep_fOp_err hphase hopd]
  exact endsWith_finish ..

/-- Settles O23: `Ok` goes back to F_OP, `Err` leads to `finish`. -/
theorem streamFormsRewindOperand : Obligations.StreamFormsRewindOperand := by
  intro i op s rest hf hbusy hphase
  rw [exec_streamForm hf hbusy, fileStep_fRew hphase]
  refine ⟨fun hok => ?_, fun c herr => ?_⟩
  · rw [State.afterOpRewind_ok hok]
  · rw [State.afterOpRewind_err herr]
    exact endsWith_finish ..

end Sys2Proof.Machine
